-- ==== Sys2Proof/Word.lean ====
section
/-! DEFINITION. The machine's one data type: the 16-bit word (00_scope.md R6, R8). -/

namespace Sys2Proof

/-- A word: an unsigned 16-bit value, the machine's only data granularity and also its address (R6, R8). -/
abbrev Word := BitVec 16

/-- `w16` of a natural number: its remainder modulo 65536 (R8). -/
def w16 (n : Nat) : Word := BitVec.ofNat 16 n

/-- `w16` of an integer: its non-negative remainder modulo 65536 (R8). -/
def w16Int (z : Int) : Word := BitVec.ofInt 16 z

end Sys2Proof
end

