-- ==== Sys2Proof/Syntax.lean ====
section
/-! DEFINITION. The syntax: general registers, operands (one per operand code), the 22 instructions of
spec/opcode_table.json. Next words are not part of an instruction: an operand reads its own at `pc` when it is
resolved (40_execution_cycle.md R113). -/

namespace Sys2Proof

/-- The eight general registers, `x[0]` to `x[7]` in this order (10_state.md R22). -/
inductive Reg where
  | a | b | c | x | y | z | i | j
deriving DecidableEq, Repr

/-- What an operand code selects: the addressing classes of 30_encoding.md R83. -/
inductive Operand where
  /-- Register direct. -/
  | reg (r : Reg)
  /-- Register-indirect: the cell at the register's value. -/
  | ind (r : Reg)
  /-- Register-indirect + next word: the cell at the register's value plus the next word. -/
  | indNext (r : Reg)
  | pop
  | peek
  | push
  | sp
  | pc
  | ex
  | ia
  /-- Immediate next word. -/
  | imm
  /-- A literal packed in the operand code; it keeps its 6-bit code, from which `LITERAL_VALUE` computes the
  value (R84). -/
  | lit (code : BitVec 6)
  /-- A code that an operand code map does not assign (R91). No code of the default map is one. -/
  | invalid (code : BitVec 6)
deriving DecidableEq, Repr

/-- The instructions: one constructor per row of spec/opcode_table.json. `b` is the first operand
(destination, left side), `a` the second (source, right side) or the only one (00_scope.md R12). -/
inductive Instr where
  | set (b a : Operand)
  | add (b a : Operand)
  | sub (b a : Operand)
  | mul (b a : Operand)
  | div (b a : Operand)
  | mod (b a : Operand)
  | shl (b a : Operand)
  | shr (b a : Operand)
  | and (b a : Operand)
  | bor (b a : Operand)
  | xor (b a : Operand)
  | ife (b a : Operand)
  | ifn (b a : Operand)
  | ifg (b a : Operand)
  | ifb (b a : Operand)
  | jsr (a : Operand)
  | int (a : Operand)
  | iag (a : Operand)
  | ias (a : Operand)
  | hwn (a : Operand)
  | hwq (a : Operand)
  | hwi (a : Operand)
deriving DecidableEq, Repr

/-- The basic opcodes (30_encoding.md R87). -/
inductive BasicOp where
  | set | add | sub | mul | div | mod | shl | shr | and | bor | xor | ife | ifn | ifg | ifb
deriving DecidableEq, Repr

/-- The extended opcodes (30_encoding.md R88). -/
inductive ExtOp where
  | jsr | int | iag | ias | hwn | hwq | hwi
deriving DecidableEq, Repr

end Sys2Proof
end

