-- ==== Sys2Proof/WellFormed.lean ====
section
/-! DEFINITION. Which instructions are well formed under the spec's default operand code map
(30_encoding.md R83): those that some instruction word encodes (log 15). -/

namespace Sys2Proof

/-- An operand some code of the default map selects: a literal's code is 0x20..0x3F, and no code is
unassigned (30_encoding.md R83, R84, R90). -/
def Operand.wf : Operand → Bool
  | .lit code => decide (0x20 ≤ code.toNat)
  | .invalid _ => false
  | .reg _ | .ind _ | .indNext _ | .pop | .peek | .push | .sp | .pc | .ex | .ia | .imm => true

/-- Every operand of the instruction is well formed. -/
def Instr.wf : Instr → Bool
  | .set b a | .add b a | .sub b a | .mul b a | .div b a | .mod b a | .shl b a | .shr b a
  | .and b a | .bor b a | .xor b a | .ife b a | .ifn b a | .ifg b a | .ifb b a => b.wf && a.wf
  | .jsr a | .int a | .iag a | .ias a | .hwn a | .hwq a | .hwi a => a.wf

end Sys2Proof
end

