-- ==== Sys2Proof/Decode.lean ====
section
/-! DEFINITION. Decoding and encoding (30_encoding.md). The encoding's configuration fields of 00_scope.md R7
(`ENCODING_LAYOUT`, `BASIC_OPCODES`, `EXT_OPCODES`, `OPERAND_CODE_MAP`) are the argument `Encoding`;
`defaultEncoding` is the spec's default, the one the machine runs. -/

namespace Sys2Proof

/-- An encoding: the lowest bit of each field (`ENCODING_LAYOUT`) and the three code tables. The widths are the
source's: 4 bits for `op`, 6 for `b`, `a` and `eop` (R81, R82). -/
structure Encoding where
  opLow : Nat
  bLow : Nat
  aLow : Nat
  eopLow : Nat
  /-- `BASIC_OPCODES`. -/
  basic : List (BitVec 4 × BasicOp)
  /-- `EXT_OPCODES`. -/
  ext : List (BitVec 6 × ExtOp)
  /-- `OPERAND_CODE_MAP`. -/
  operands : List (BitVec 6 × Operand)
deriving DecidableEq, Repr

/-- The basic opcode numbers (R87). -/
def basicOpcodes : List (BitVec 4 × BasicOp) :=
  [(0x1, .set), (0x2, .add), (0x3, .sub), (0x4, .mul), (0x5, .div), (0x6, .mod), (0x7, .shl), (0x8, .shr),
   (0x9, .and), (0xA, .bor), (0xB, .xor), (0xC, .ife), (0xD, .ifn), (0xE, .ifg), (0xF, .ifb)]

/-- The extended opcode numbers (R88). -/
def extOpcodes : List (BitVec 6 × ExtOp) :=
  [(0x01, .jsr), (0x08, .int), (0x09, .iag), (0x0A, .ias), (0x10, .hwn), (0x11, .hwq), (0x12, .hwi)]

/-- The general registers in index order, `x[0]` to `x[7]` (10_state.md R22). -/
def registersInOrder : List Reg := [.a, .b, .c, .x, .y, .z, .i, .j]

/-- One operand per register, at the eight codes from `base` on (R83). -/
def registerCodes (base : Nat) (operand : Reg → Operand) : List (BitVec 6 × Operand) :=
  registersInOrder.zipIdx.map fun p => (BitVec.ofNat 6 (base + p.2), operand p.1)

/-- The operand codes (R83). -/
def operandCodes : List (BitVec 6 × Operand) :=
  registerCodes 0x00 .reg ++ registerCodes 0x08 .ind ++ registerCodes 0x10 .indNext
  ++ [(0x18, .pop), (0x19, .peek), (0x1A, .push), (0x1B, .sp), (0x1C, .pc), (0x1D, .ex), (0x1E, .ia), (0x1F, .imm)]
  ++ (List.range 0x20).map fun n => (BitVec.ofNat 6 (0x20 + n), .lit (BitVec.ofNat 6 (0x20 + n)))

/-- The spec's default encoding (R81, R82, R83, R87, R88; log 3). -/
def defaultEncoding : Encoding :=
  { opLow := 0, bLow := 4, aLow := 10, eopLow := 4,
    basic := basicOpcodes, ext := extOpcodes, operands := operandCodes }

/-- Bits `low + n - 1` to `low` of a word (00_scope.md R8). -/
def fieldAt (w : Word) (low n : Nat) : BitVec n := w.extractLsb' low n

/-- A field's bits in their place in a word. -/
def placeField {n : Nat} (low : Nat) (v : BitVec n) : Word := v.setWidth 16 <<< low

/-- The operand a code selects; a code outside the map is an invalid operand (R91). -/
def operandAt (e : Encoding) (code : BitVec 6) : Operand := (e.operands.lookup code).getD (.invalid code)

/-- The instruction of a basic opcode (R87). -/
def BasicOp.instr (b a : Operand) : BasicOp → Instr
  | .set => .set b a
  | .add => .add b a
  | .sub => .sub b a
  | .mul => .mul b a
  | .div => .div b a
  | .mod => .mod b a
  | .shl => .shl b a
  | .shr => .shr b a
  | .and => .and b a
  | .bor => .bor b a
  | .xor => .xor b a
  | .ife => .ife b a
  | .ifn => .ifn b a
  | .ifg => .ifg b a
  | .ifb => .ifb b a

/-- The instruction of an extended opcode (R88). -/
def ExtOp.instr (a : Operand) : ExtOp → Instr
  | .jsr => .jsr a
  | .int => .int a
  | .iag => .iag a
  | .ias => .ias a
  | .hwn => .hwn a
  | .hwq => .hwq a
  | .hwi => .hwi a

/-- What decoding a word gives: an instruction, or the rejection of an unassigned word by name (R89, R112). -/
inductive Decoded where
  | instr (i : Instr)
  | unassigned (w : Word)
deriving DecidableEq, Repr

/-- Decoding one instruction word under an encoding (40_execution_cycle.md R111): `op` 0 is the extended form.
The `eop` field is never resolved as an operand (R82). -/
def decodeWith (e : Encoding) (w : Word) : Decoded :=
  let op := fieldAt w e.opLow 4
  let a := operandAt e (fieldAt w e.aLow 6)
  if op = 0 then
    match e.ext.lookup (fieldAt w e.eopLow 6) with
    | some o => .instr (o.instr a)
    | none => .unassigned w
  else
    match e.basic.lookup op with
    | some o => .instr (o.instr (operandAt e (fieldAt w e.bLow 6)) a)
    | none => .unassigned w

/-- Decoding under the spec's default encoding: total on the 65536 words (R112). -/
def decode (w : Word) : Decoded := decodeWith defaultEncoding w

/-- The number a code table gives an entry: the table read from right to left. -/
def codeOf {n : Nat} {α : Type} [DecidableEq α] (table : List (BitVec n × α)) (v : α) : Option (BitVec n) :=
  (table.find? fun p => decide (p.2 = v)).map Prod.fst

/-- `w = (a << 10) | (b << 4) | op` (R92), the fields where the encoding puts them. -/
def encodeBasic (e : Encoding) (o : BasicOp) (b a : Operand) : Option Word :=
  match codeOf e.basic o, codeOf e.operands b, codeOf e.operands a with
  | some op, some bc, some ac => some (placeField e.aLow ac ||| placeField e.bLow bc ||| placeField e.opLow op)
  | _, _, _ => none

/-- `w = (a << 10) | (eop << 4)` (R92). -/
def encodeExt (e : Encoding) (o : ExtOp) (a : Operand) : Option Word :=
  match codeOf e.ext o, codeOf e.operands a with
  | some eop, some ac => some (placeField e.aLow ac ||| placeField e.eopLow eop)
  | _, _ => none

/-- The instruction word of an instruction under an encoding; none where the tables give an operand or the
opcode no code. -/
def encodeWith (e : Encoding) : Instr → Option Word
  | .set b a => encodeBasic e .set b a
  | .add b a => encodeBasic e .add b a
  | .sub b a => encodeBasic e .sub b a
  | .mul b a => encodeBasic e .mul b a
  | .div b a => encodeBasic e .div b a
  | .mod b a => encodeBasic e .mod b a
  | .shl b a => encodeBasic e .shl b a
  | .shr b a => encodeBasic e .shr b a
  | .and b a => encodeBasic e .and b a
  | .bor b a => encodeBasic e .bor b a
  | .xor b a => encodeBasic e .xor b a
  | .ife b a => encodeBasic e .ife b a
  | .ifn b a => encodeBasic e .ifn b a
  | .ifg b a => encodeBasic e .ifg b a
  | .ifb b a => encodeBasic e .ifb b a
  | .jsr a => encodeExt e .jsr a
  | .int a => encodeExt e .int a
  | .iag a => encodeExt e .iag a
  | .ias a => encodeExt e .ias a
  | .hwn a => encodeExt e .hwn a
  | .hwq a => encodeExt e .hwq a
  | .hwi a => encodeExt e .hwi a

/-- The instruction word of an instruction under the default encoding (R92); some for a well-formed one. -/
def encode (i : Instr) : Option Word := encodeWith defaultEncoding i

/-- `NW`: how many next words an operand consumes (R85); an invalid operand consumes none (R91). -/
def Operand.nextWords : Operand → Nat
  | .indNext _ | .imm => 1
  | .reg _ | .ind _ | .pop | .peek | .push | .sp | .pc | .ex | .ia | .lit _ | .invalid _ => 0

/-- How many next words an instruction consumes: `b`'s, then `a`'s (R86). -/
def Instr.nextWords : Instr → Nat
  | .set b a | .add b a | .sub b a | .mul b a | .div b a | .mod b a | .shl b a | .shr b a
  | .and b a | .bor b a | .xor b a | .ife b a | .ifn b a | .ifg b a | .ifb b a => b.nextWords + a.nextWords
  | .jsr a | .int a | .iag a | .ias a | .hwn a | .hwq a | .hwi a => a.nextWords

/-- The length of an instruction in words (R80, R86). -/
def Instr.length (i : Instr) : Nat := 1 + i.nextWords

/-- `len(w)`: the length told from the first word alone (R86); none for an unassigned word. -/
def wordLength (w : Word) : Option Nat :=
  match decode w with
  | .instr i => some i.length
  | .unassigned _ => none

/-- The next words of a two-operand instruction in memory order, `b`'s first (R86, R92). -/
def nextWordsOf (b a : Operand) (nb na : Word) : List Word :=
  List.replicate b.nextWords nb ++ List.replicate a.nextWords na

/-- All words of an instruction in memory order (R92), where `nb` is the next word of `b` if it has one and
`na` that of `a`. -/
def encodeWords (i : Instr) (nb na : Word) : Option (List Word) :=
  (encode i).map fun w => w :: match i with
    | .set b a | .add b a | .sub b a | .mul b a | .div b a | .mod b a | .shl b a | .shr b a
    | .and b a | .bor b a | .xor b a | .ife b a | .ifn b a | .ifg b a | .ifb b a => nextWordsOf b a nb na
    | .jsr a | .int a | .iag a | .ias a | .hwn a | .hwq a | .hwi a => List.replicate a.nextWords na

/-- What the decoder reads from an instruction whose bits are `w`, numbered as spec/opcode_table.json numbers
them: the instruction word is bits 15..0, and the decoder needs no later word. -/
def decodeTableWord (nbits w : Nat) : Option Instr :=
  match decode (w16 (w % 2 ^ nbits)) with
  | .instr i => some i
  | .unassigned _ => none

end Sys2Proof
end

