-- ==== Sys2Proof/Config.lean ====
section
/-! DEFINITION. The configuration fields of 00_scope.md R7 that change a meaning, with every alternative the
spec names (93_implementation_defined.md section 2), and the free values: what the spec leaves to no rule. The
default configuration stands in Machine/Defaults.lean, the encoding's fields in Decode.lean. -/

namespace Sys2Proof

/-- `LITERAL_VALUE` (R84, 92_eei_decisions.md D5). -/
inductive LiteralMode where
  /-- `code - 0x20`, the default. -/
  | minus20
  /-- `code - 0x21` modulo 2^16. -/
  | minus21
deriving DecidableEq, Repr

/-- `divEx`: `ex` after `DIV` by a nonzero divisor (R155, D9). -/
inductive DivEx where
  /-- `w16((b << 16) / a)`, the default. -/
  | fraction
  /-- `ZERO`. -/
  | zero
  /-- `UNCHANGED`. -/
  | unchanged
deriving DecidableEq, Repr

/-- `modEx`: `ex` after `MOD` (R156, D10). -/
inductive ModEx where
  /-- `NONE`, the default: unchanged for every divisor. -/
  | none
  /-- `ZERO_ON_DIVZERO`. -/
  | zeroOnDivZero
deriving DecidableEq, Repr

/-- `exDestOrder`: the order of the `ex` write and the destination write (R162, D13). -/
inductive ExDestOrder where
  /-- `EX_FIRST`, the default. -/
  | exFirst
  /-- `DEST_FIRST`. -/
  | destFirst
deriving DecidableEq, Repr

/-- `hwqMode`: where `HWQ` writes its zeros (R216, D14). -/
inductive HwqMode where
  /-- `ABCXY`, the default. -/
  | abcxy
  /-- `OPERAND`: no write. -/
  | operand
deriving DecidableEq, Repr

/-- `irqMode`: when a queued interrupt message is dispatched (60_exceptions.md R248, D16). -/
inductive IrqMode where
  /-- `ANY_BOUNDARY`, the default: the environment chooses. -/
  | anyBoundary
  /-- `EAGER`. -/
  | eager
  /-- `NEVER`. -/
  | never
deriving DecidableEq, Repr

/-- The configuration of one machine; no step changes it (R7). DESIGN CHOICE (log 2): State carries it, so a
statement about every state is a statement about every configuration. -/
structure Config where
  literal : LiteralMode
  divEx : DivEx
  modEx : ModEx
  exDestOrder : ExDestOrder
  hwqMode : HwqMode
  irqMode : IrqMode
deriving DecidableEq, Repr

/-- FREE VALUE (safe, log 6): the environment's choice at the n-th boundary at which it has one: dispatch the
queue's head (true) or take the next step (false), 60_exceptions.md R248 under `ANY_BOUNDARY`. -/
opaque Config.environmentDispatches : Nat → Bool

/-- FREE VALUE (safe, log 5): the word that resolving a value in skip mode returns, "any word"
(40_execution_cycle.md R119, R120). -/
opaque Config.skipModeWord : Nat → Word

end Sys2Proof
end

