-- ==== Sys2Proof/Machine/Defaults.lean ====
section
/-! DEFINITION. The configuration the spec takes as its default (00_scope.md R7). -/

namespace Sys2Proof.Machine

/-- The default of every configuration field (R7; D5, D9, D10, D13, D14, D16; log 2). -/
def defaultConfig : Config :=
  { literal := .minus20, divEx := .fraction, modEx := .none, exDestOrder := .exFirst, hwqMode := .abcxy,
    irqMode := .anyBoundary }

end Sys2Proof.Machine
end

