-- ==== Sys2Proof/Machine/State.lean ====
section
/-! DEFINITION. The machine's state as plain data, the reasons a step can stop, and the state after reset. -/

namespace Sys2Proof.Machine

/-- The general registers `x[0]` to `x[7]` under their names A, B, C, X, Y, Z, I, J (10_state.md R22). -/
structure Regs where
  a : Word
  b : Word
  c : Word
  x : Word
  y : Word
  z : Word
  i : Word
  j : Word
deriving DecidableEq, Repr

/-- The memory: cells (address, word) in the canonical form `Memory.wf` of Machine/Mem.lean. The word is the
machine's only granularity, there are no bytes (20_memory.md R50, R60; DEDUCED, log 1). -/
abbrev Memory := List (Nat × Word)

/-- One hook registration `(lo, hi, observer)` (10_state.md R29). The observer is an external callback; here it
is the number by which the host knows it (DESIGN CHOICE, log 9). -/
structure Hook where
  lo : Word
  hi : Word
  observer : Nat
deriving DecidableEq, Repr

/-- The write kinds a hook receives: only `WRITE` (20_memory.md R57). -/
inductive WriteKind where
  | write
deriving DecidableEq, Repr

/-- One notification of one observer: its payload is `(address, write_kind)` (20_memory.md R57, R58). -/
structure HookEvent where
  observer : Nat
  addr : Word
  kind : WriteKind
deriving DecidableEq, Repr

/-- The machine state: the tuple of 10_state.md R20, then the model's own fields. -/
structure State where
  /-- `x[0..7]` (R22). -/
  regs : Regs
  /-- The program counter (R23). -/
  pc : Word
  /-- The stack pointer (R24). -/
  sp : Word
  /-- The overflow register (R25). -/
  ex : Word
  /-- The interrupt-address register; 0 means disabled (R26). -/
  ia : Word
  /-- `memory[0..65535]` (R31). -/
  mem : Memory
  /-- The pending-skip flag (R27). -/
  skip : Bool
  /-- The discard slot, written and never read (R28). -/
  discard : Word
  /-- The hook registry in registration order (R29). -/
  hooks : List Hook
  /-- The pending-interrupt FIFO, head first (R30). -/
  queue : List Word
  /-- MODEL'S OWN: the ordered trace of hook events, oldest first (20_memory.md R58; log 9). -/
  trace : List HookEvent
  /-- MODEL'S OWN: the configuration; no step changes it (00_scope.md R7; log 2). -/
  cfg : Config
  /-- MODEL'S OWN: a dispatch has been taken at the present instruction boundary, so none may follow before the
  next step (60_exceptions.md R250; log 7). -/
  dispatched : Bool
  /-- MODEL'S OWN: the index of the next free value (log 5, log 6). -/
  fresh : Nat
deriving DecidableEq, Repr

/-- Why a step ends in a fault: never. The hardware has no fault outcome (60_exceptions.md R240,
40_execution_cycle.md R135), so there is no constructor; this is safe only as far as R240 is right. -/
inductive Fault where
deriving DecidableEq, Repr

/-- Why a step is refused. -/
inductive Refusal where
  /-- Raised by an arm of `exec` whose instruction has no meaning yet (safe: the run stops). No arm raises it. -/
  | notModelled (mnemonic : String)
  /-- Raised by `step` on a word whose opcode is unassigned, in normal and in skip mode (30_encoding.md R89,
  60_exceptions.md R244). `left` is the state the refused step leaves: `pc` past the instruction word and
  nothing else changed; the run has no continuation. Safe: hardware that goes on is not spoken of. -/
  | undefinedInstruction (w : Word) (left : State)
deriving DecidableEq, Repr

/-- The state after reset (70_reset_and_hazards.md R270). `discard` is DESIGN CHOICE 0 (log 4); `trace`,
`dispatched` and `fresh` are the model's own (log 5, log 7, log 9). -/
def State.reset : State :=
  { regs := { a := 0, b := 0, c := 0, x := 0, y := 0, z := 0, i := 0, j := 0 },
    pc := 0, sp := 0, ex := 0, ia := 0, mem := [], skip := false, discard := 0, hooks := [], queue := [],
    trace := [], cfg := defaultConfig, dispatched := false, fresh := 0 }

end Sys2Proof.Machine
end

