-- ==== Sys2Proof/Machine/Mem.lean ====
section
/-! DEFINITION. The word store as data: reading and writing one word, and its canonical form. -/

namespace Sys2Proof.Machine

/-- What a cell that nothing lists reads as: memory is zero after reset (70_reset_and_hazards.md R270). -/
def memDefault : Word := 0

/-- The word at a cell number. -/
def Memory.readNat : Memory → Nat → Word
  | [], _ => memDefault
  | c :: rest, k => if c.1 = k then c.2 else Memory.readNat rest k

/-- `memory[a]` (20_memory.md R52). -/
def Memory.read (m : Memory) (a : Word) : Word := Memory.readNat m a.toNat

/-- The memory without a cell. -/
def Memory.erase (m : Memory) (k : Nat) : Memory := m.filter fun c => decide (c.1 ≠ k)

/-- The memory with one more cell, in its place by address. -/
def Memory.insertCell : Memory → Nat → Word → Memory
  | [], k, v => [(k, v)]
  | c :: rest, k, v => if k < c.1 then (k, v) :: c :: rest else c :: Memory.insertCell rest k v

/-- `memory[a] <- v`; writing the value an unlisted cell reads as removes the cell. -/
def Memory.write (m : Memory) (a v : Word) : Memory :=
  if v = memDefault then m.erase a.toNat else (m.erase a.toNat).insertCell a.toNat v

/-- The canonical form: addresses strictly rising and below 65536, no cell equal to what an unlisted one reads
as. -/
abbrev Memory.wf (m : Memory) : Prop :=
  m.Pairwise (fun c d => c.1 < d.1) ∧ ∀ c ∈ m, c.1 < 65536 ∧ c.2 ≠ memDefault

end Sys2Proof.Machine
end

