-- ==== Sys2Proof/Machine/Ops.lean ====
section
/-! DEFINITION. The named operations over registers, memory, hooks and the interrupt queue, and interrupt entry
(the hardware's only exception-like transition: 60_exceptions.md R240, R248). -/

namespace Sys2Proof.Machine

/-- `x[i]` (00_scope.md R9). -/
def Regs.get (g : Regs) : Reg → Word
  | .a => g.a
  | .b => g.b
  | .c => g.c
  | .x => g.x
  | .y => g.y
  | .z => g.z
  | .i => g.i
  | .j => g.j

/-- `x[i] <- v` (00_scope.md R9). -/
def Regs.put (g : Regs) (r : Reg) (v : Word) : Regs :=
  match r with
  | .a => { g with a := v }
  | .b => { g with b := v }
  | .c => { g with c := v }
  | .x => { g with x := v }
  | .y => { g with y := v }
  | .z => { g with z := v }
  | .i => { g with i := v }
  | .j => { g with j := v }

/-- The value of a general register. -/
def State.reg (s : State) (r : Reg) : Word := s.regs.get r

def State.setReg (s : State) (r : Reg) (v : Word) : State := { s with regs := s.regs.put r v }
def State.setPc (s : State) (v : Word) : State := { s with pc := v }
def State.setSp (s : State) (v : Word) : State := { s with sp := v }
def State.setEx (s : State) (v : Word) : State := { s with ex := v }
def State.setIa (s : State) (v : Word) : State := { s with ia := v }
def State.setMem (s : State) (m : Memory) : State := { s with mem := m }
def State.setSkip (s : State) (v : Bool) : State := { s with skip := v }
def State.setDiscard (s : State) (v : Word) : State := { s with discard := v }
def State.setHooks (s : State) (h : List Hook) : State := { s with hooks := h }
def State.setQueue (s : State) (q : List Word) : State := { s with queue := q }
def State.setTrace (s : State) (t : List HookEvent) : State := { s with trace := t }
def State.setDispatched (s : State) (v : Bool) : State := { s with dispatched := v }
def State.setFresh (s : State) (n : Nat) : State := { s with fresh := n }

/-- `MemRead(addr, 1)`: no side effect (20_memory.md R52). -/
def memRead (s : State) (addr : Word) : Word := s.mem.read addr

/-- A registration covers an address: the range is inclusive, and `lo > hi` covers none (20_memory.md R54). -/
def Hook.covers (h : Hook) (addr : Word) : Bool := decide (h.lo ≤ addr) && decide (addr ≤ h.hi)

/-- The events one write to an address makes: one per covering registration, in registration order
(20_memory.md R54, R57). -/
def eventsAt (hooks : List Hook) (addr : Word) : List HookEvent :=
  (hooks.filter fun h => h.covers addr).map fun h => { observer := h.observer, addr := addr, kind := .write }

/-- `Fire(A)`: every covering observer is called, that is, recorded in the trace (20_memory.md R54, R58). -/
def fire (s : State) (addr : Word) : State := s.setTrace (s.trace ++ eventsAt s.hooks addr)

/-- `MemWrite(addr, 1, v)`: the store, then the hooks, whether or not the value changes (20_memory.md R53, R55). -/
def memWrite (s : State) (addr v : Word) : State := fire (s.setMem (s.mem.write addr v)) addr

/-- The push of `JSR` and of interrupt dispatch: `sp` down by one, then a store at the new `sp`
(43_extended.md R211, 60_exceptions.md R248). -/
def pushWord (s : State) (v : Word) : State := memWrite (s.setSp (s.sp - 1)) (s.sp - 1) v

/-- `NextWord()`: the word at `pc`, and the state with `pc` past it (40_execution_cycle.md R113). -/
def nextWord (s : State) : Word × State := (memRead s s.pc, s.setPc (s.pc + 1))

/-- A free word, and the state in which the next free value is another one (log 5). -/
def freeWord (s : State) : Word × State := (Config.skipModeWord s.fresh, s.setFresh (s.fresh + 1))

/-- `RaiseInterrupt(m)`: dropped while `ia` is 0, else appended to the queue (60_exceptions.md R247). -/
def raiseInterrupt (s : State) (m : Word) : State := if s.ia = 0 then s else s.setQueue (s.queue ++ [m])

/-- Interrupt entry for a message: push `pc`, push A, go to `ia`, put the message into A
(60_exceptions.md R248, R251). Nothing is masked, and the return is two ordinary `SET`s (R252). -/
def enterInterrupt (s : State) (m : Word) : State :=
  let s1 := pushWord s s.pc
  let s2 := pushWord s1 (s1.reg .a)
  (s2.setPc s2.ia).setReg .a m

/-- `Dispatch()`: the queue's head is removed, and delivered unless `ia` is 0 (60_exceptions.md R248). -/
def dispatch (s : State) : State :=
  match s.queue with
  | [] => s
  | m :: rest => if s.ia = 0 then s.setQueue rest else enterInterrupt (s.setQueue rest) m

/-- `Dispatch` is enabled: a message waits, no skip is pending (60_exceptions.md R248), and none was taken at
this boundary (R250). -/
def dispatchReady (s : State) : Bool := !s.queue.isEmpty && !s.skip && !s.dispatched

/-- What happens at an instruction boundary. -/
inductive Boundary where
  /-- The transition taken is `Dispatch`; the state after it. -/
  | dispatched (t : State)
  /-- The transition taken is `Step`; the state it starts in. -/
  | proceeds (t : State)
deriving DecidableEq, Repr

/-- The state after `Dispatch` at this boundary, at which no second one may follow (R250). -/
def dispatchHere (s : State) : State := (dispatch s).setDispatched true

/-- The choice between `Dispatch` and `Step`, by `irqMode`; under `ANY_BOUNDARY` it is the environment's, a free
value (60_exceptions.md R248; log 6). -/
def boundary (s : State) : Boundary :=
  if dispatchReady s then
    match s.cfg.irqMode with
    | .never => .proceeds s
    | .eager => .dispatched (dispatchHere s)
    | .anyBoundary =>
      let t := s.setFresh (s.fresh + 1)
      if Config.environmentDispatches s.fresh then .dispatched (dispatchHere t) else .proceeds t
  else .proceeds s

/-- The instruction word a step fetches (40_execution_cycle.md R111). -/
def fetchedWord (s : State) : Word := memRead s s.pc

/-- The state after the fetch: `pc` past the instruction word (40_execution_cycle.md R111). A step has begun, so
the next boundary is a new one (log 7). -/
def afterFetch (s : State) : State := (s.setPc (s.pc + 1)).setDispatched false

/-- An instruction's words stored where the next step fetches: its word at `pc` and its two possible next words
after it, as a load stores them, without hooks (20_memory.md R67); and no dispatch before that step (log 11). -/
def storeInstr (s : State) (nbits w : Nat) : State :=
  let bits := w % 2 ^ nbits
  let m0 := s.mem.write s.pc (w16 bits)
  let m1 := m0.write (s.pc + 1) (w16 (bits >>> 16))
  let m2 := m1.write (s.pc + 2) (w16 (bits >>> 32))
  (s.setMem m2).setDispatched true

end Sys2Proof.Machine
end

