-- ==== Sys2Proof/Machine/Operands.lean ====
section
/-! DEFINITION. Storage locators and the Operand Resolver: every operand form, in normal and in skip mode
(40_execution_cycle.md sections 3 and 4). -/

namespace Sys2Proof.Machine

/-- The special registers a locator can name (00_scope.md R10). -/
inductive Spc where
  | sp | pc | ex | ia
deriving DecidableEq, Repr

/-- A storage locator (00_scope.md R10, 40_execution_cycle.md R114). -/
inductive Loc where
  | reg (r : Reg)
  | mem (addr : Word)
  | spc (k : Spc)
  | discard
deriving DecidableEq, Repr

/-- `ReadLoc` (R115). No rule evaluates it on `Discard`; there it reads the slot (DESIGN CHOICE, log 15). -/
def readLoc (s : State) : Loc → Word
  | .reg r => s.reg r
  | .mem addr => memRead s addr
  | .spc .sp => s.sp
  | .spc .pc => s.pc
  | .spc .ex => s.ex
  | .spc .ia => s.ia
  | .discard => s.discard

/-- `WriteLoc`: only a write to memory notifies hooks (R115). -/
def writeLoc (s : State) (l : Loc) (v : Word) : State :=
  match l with
  | .reg r => s.setReg r v
  | .mem addr => memWrite s addr v
  | .spc .sp => s.setSp v
  | .spc .pc => s.setPc v
  | .spc .ex => s.setEx v
  | .spc .ia => s.setIa v
  | .discard => s.setDiscard v

/-- `LITERAL_VALUE(code)` under the configuration (30_encoding.md R84, 92_eei_decisions.md D5). -/
def literalValue (m : LiteralMode) (code : BitVec 6) : Word :=
  match m with
  | .minus20 => code.setWidth 16 - 0x20
  | .minus21 => code.setWidth 16 - 0x21

/-- The state after an operand's next word, if it has one, is consumed: all that resolving does in skip mode
(R117, R119). -/
def consumeOnly (o : Operand) (s : State) : State := if o.nextWords = 1 then (nextWord s).2 else s

/-- `ResolveLoc` in normal mode (R116); an invalid operand is `Discard` without side effect (30_encoding.md R91). -/
def resolveLocNormal (o : Operand) (s : State) : Loc × State :=
  match o with
  | .reg r => (.reg r, s)
  | .ind r => (.mem (s.reg r), s)
  | .indNext r => (.mem (s.reg r + (nextWord s).1), (nextWord s).2)
  | .pop => (.mem s.sp, s.setSp (s.sp + 1))
  | .peek => (.mem s.sp, s)
  | .push => (.mem (s.sp - 1), s.setSp (s.sp - 1))
  | .sp => (.spc .sp, s)
  | .pc => (.spc .pc, s)
  | .ex => (.spc .ex, s)
  | .ia => (.spc .ia, s)
  | .imm => (.discard, (nextWord s).2)
  | .lit _ => (.discard, s)
  | .invalid _ => (.discard, s)

/-- `ResolveLoc(code)`: normal mode R116, skip mode R117. -/
def resolveLoc (o : Operand) (s : State) : Loc × State :=
  if s.skip then (.discard, consumeOnly o s) else resolveLocNormal o s

/-- `ResolveValue` in normal mode (R118); an invalid operand's value is 0 (30_encoding.md R91). -/
def resolveValueNormal (o : Operand) (s : State) : Word × State :=
  match o with
  | .reg r => (s.reg r, s)
  | .ind r => (memRead s (s.reg r), s)
  | .indNext r => (memRead (nextWord s).2 (s.reg r + (nextWord s).1), (nextWord s).2)
  | .pop => (memRead s s.sp, s.setSp (s.sp + 1))
  | .peek => (memRead s s.sp, s)
  | .push => (memRead s (s.sp - 1), s.setSp (s.sp - 1))
  | .sp => (s.sp, s)
  | .pc => (s.pc, s)
  | .ex => (s.ex, s)
  | .ia => (s.ia, s)
  | .imm => nextWord s
  | .lit code => (literalValue s.cfg.literal code, s)
  | .invalid _ => (0, s)

/-- `ResolveValue(code)`: normal mode R118; in skip mode the value is any word, a free value (R119; log 5). -/
def resolveValue (o : Operand) (s : State) : Word × State :=
  if s.skip then freeWord (consumeOnly o s) else resolveValueNormal o s

/-- `ResolveOnce` in normal mode (R120): the value already consumed, found again behind `pc` or at `sp`. -/
def resolveOnceNormal (o : Operand) (s : State) : Word :=
  match o with
  | .indNext r => memRead s (s.reg r + memRead s (s.pc - 1))
  | .pop => memRead s (s.sp - 1)
  | .push => memRead s s.sp
  | .imm => memRead s (s.pc - 1)
  | .reg _ | .ind _ | .peek | .sp | .pc | .ex | .ia | .lit _ | .invalid _ => (resolveValueNormal o s).1

/-- `ResolveOnce(code)`, the second read of a read-modify-write destination (R120): no side effect. In skip mode
it is any word and nothing observes it, so the free value is read without being used up (R120; log 5). -/
def resolveOnce (o : Operand) (s : State) : Word :=
  if s.skip then Config.skipModeWord s.fresh else resolveOnceNormal o s

end Sys2Proof.Machine
end

