-- ==== Sys2Proof/Machine/Flags.lean ====
section
/-! DEFINITION. Results, the overflow register and conditions: the functions `F_op` and `Cond_op` of
41_assign_arith.md and 42_conditional.md, computed exactly on Nat and Int and narrowed at the end (R164). -/

namespace Sys2Proof.Machine

/-- `(r, e)`: the result and the `ex` write, none for no write (R150). -/
structure AluResult where
  r : Word
  e : Option Word
deriving DecidableEq, Repr

/-- `F_ADD` (R152): `ex` is the carry out of bit 15. -/
def fAdd (vb va : Word) : AluResult :=
  let s := vb.toNat + va.toNat
  { r := w16 s, e := some (if s > 0xFFFF then 0x0001 else 0x0000) }

/-- `F_SUB` (R153): `ex` is 0xFFFF on borrow. -/
def fSub (vb va : Word) : AluResult :=
  let d : Int := (vb.toNat : Int) - (va.toNat : Int)
  { r := w16Int d, e := some (if d < 0 then 0xFFFF else 0x0000) }

/-- `F_MUL` (R154): `ex` is the high word of the product. -/
def fMul (vb va : Word) : AluResult :=
  let p := vb.toNat * va.toNat
  { r := w16 p, e := some (w16 (p >>> 16)) }

/-- `divEx(b, a)` for a nonzero divisor (R155, 92_eei_decisions.md D9). -/
def divExValue (m : DivEx) (vb va : Word) : Option Word :=
  match m with
  | .fraction => some (w16 ((vb.toNat <<< 16) / va.toNat))
  | .zero => some 0
  | .unchanged => none

/-- `F_DIV` (R155): division by zero gives 0 and `ex` 0. -/
def fDiv (m : DivEx) (vb va : Word) : AluResult :=
  if va = 0 then { r := 0x0000, e := some 0x0000 }
  else { r := w16 (vb.toNat / va.toNat), e := divExValue m vb va }

/-- `modEx` (R156, 92_eei_decisions.md D10). -/
def modExValue (m : ModEx) (va : Word) : Option Word :=
  match m with
  | .none => none
  | .zeroOnDivZero => if va = 0 then some 0x0000 else none

/-- `F_MOD` (R156): the remainder by zero is 0. -/
def fMod (m : ModEx) (vb va : Word) : AluResult :=
  { r := if va = 0 then 0x0000 else w16 (vb.toNat % va.toNat), e := modExValue m va }

/-- `F_SHL` (R157): the exact shift, of which `ex` takes the high word. -/
def fShl (vb va : Word) : AluResult :=
  let p := vb.toNat <<< va.toNat
  { r := w16 p, e := some (w16 (p >>> 16)) }

/-- `F_SHR` (R158): the shift of the double-width value, of which `ex` takes the low word. -/
def fShr (vb va : Word) : AluResult :=
  let q := (vb.toNat <<< 16) >>> va.toNat
  { r := w16 (q >>> 16), e := some (w16 q) }

/-- `F_AND` (R159). -/
def fAnd (vb va : Word) : AluResult := { r := vb &&& va, e := none }

/-- `F_BOR` (R160). -/
def fBor (vb va : Word) : AluResult := { r := vb ||| va, e := none }

/-- `F_XOR` (R161). -/
def fXor (vb va : Word) : AluResult := { r := vb ^^^ va, e := none }

/-- `Cond_IFE` (R191). -/
def condEqual (vb va : Word) : Bool := decide (vb = va)

/-- `Cond_IFN` (R192). -/
def condNotEqual (vb va : Word) : Bool := decide (vb ≠ va)

/-- `Cond_IFG` (R193): unsigned, first operand greater than second. -/
def condGreater (vb va : Word) : Bool := decide (va.toNat < vb.toNat)

/-- `Cond_IFB` (R194): the operands share a set bit. -/
def condBits (vb va : Word) : Bool := decide (vb &&& va ≠ 0)

end Sys2Proof.Machine
end

