-- ==== Sys2Proof/Machine/Handler.lean ====
section
/-! DEFINITION. The handler template: skip guard, order of the `ex` and destination writes, and the shared bodies
of the families (40_execution_cycle.md R125, R126; 41_assign_arith.md R150, R162; 42_conditional.md R190). -/

namespace Sys2Proof.Machine

/-- `SkipGuard()` and what follows it: in skip mode the flag is cleared and the instruction ends (R125). -/
def skipGuard (s : State) (effect : State → State) : State := if s.skip then s.setSkip false else effect s

/-- The `ex` write of an instruction that has one (R162). -/
def writeEx (s : State) (e : Option Word) : State :=
  match e with
  | some v => s.setEx v
  | none => s

/-- `ExAndDest(L, r, e)` in the configured order (R162). -/
def exAndDest (s : State) (l : Loc) (q : AluResult) : State :=
  match s.cfg.exDestOrder with
  | .exFirst => writeLoc (writeEx s q.e) l q.r
  | .destFirst => writeEx (writeLoc s l q.r) q.e

/-- The read-modify-write skeleton (R150): the destination's locator, its present value, the source's value, the
skip guard, the result, the writes. -/
def readModifyWrite (f : Word → Word → AluResult) (b a : Operand) (s : State) : State :=
  let l := resolveLoc b s
  let vb := resolveOnce b l.2
  let v := resolveValue a l.2
  skipGuard v.2 fun t => (exAndDest t l.1 (f vb v.1)).setSkip false

/-- The `SET` path (R151): no skip guard; in skip mode the locator is `Discard`. -/
def setPath (b a : Operand) (s : State) : State :=
  let l := resolveLoc b s
  let v := resolveValue a l.2
  (writeLoc v.2 l.1 v.1).setSkip false

/-- The conditional skeleton (R190): both values, the skip guard, then `skip` is the failed condition. -/
def conditional (cond : Word → Word → Bool) (b a : Operand) (s : State) : State :=
  let vb := resolveValue b s
  let va := resolveValue a vb.2
  skipGuard va.2 fun t => t.setSkip (!cond vb.1 va.1)

end Sys2Proof.Machine
end

