-- ==== Sys2Proof/Machine/Arith.lean ====
section
/-! DEFINITION. Assignment, arithmetic, shift and bitwise instructions (41_assign_arith.md). -/

namespace Sys2Proof.Machine

/-- `SET b, a` (R151). -/
def execSet (b a : Operand) (s : State) : Host.Outcome State Fault Refusal := .next (setPath b a s)

/-- `ADD b, a` (R152). -/
def execAdd (b a : Operand) (s : State) : Host.Outcome State Fault Refusal := .next (readModifyWrite fAdd b a s)

/-- `SUB b, a` (R153). -/
def execSub (b a : Operand) (s : State) : Host.Outcome State Fault Refusal := .next (readModifyWrite fSub b a s)

/-- `MUL b, a` (R154). -/
def execMul (b a : Operand) (s : State) : Host.Outcome State Fault Refusal := .next (readModifyWrite fMul b a s)

/-- `DIV b, a` (R155). -/
def execDiv (b a : Operand) (s : State) : Host.Outcome State Fault Refusal :=
  .next (readModifyWrite (fDiv s.cfg.divEx) b a s)

/-- `MOD b, a` (R156). -/
def execMod (b a : Operand) (s : State) : Host.Outcome State Fault Refusal :=
  .next (readModifyWrite (fMod s.cfg.modEx) b a s)

/-- `SHL b, a` (R157). -/
def execShl (b a : Operand) (s : State) : Host.Outcome State Fault Refusal := .next (readModifyWrite fShl b a s)

/-- `SHR b, a` (R158). -/
def execShr (b a : Operand) (s : State) : Host.Outcome State Fault Refusal := .next (readModifyWrite fShr b a s)

/-- `AND b, a` (R159). -/
def execAnd (b a : Operand) (s : State) : Host.Outcome State Fault Refusal := .next (readModifyWrite fAnd b a s)

/-- `BOR b, a` (R160). -/
def execBor (b a : Operand) (s : State) : Host.Outcome State Fault Refusal := .next (readModifyWrite fBor b a s)

/-- `XOR b, a` (R161). -/
def execXor (b a : Operand) (s : State) : Host.Outcome State Fault Refusal := .next (readModifyWrite fXor b a s)

end Sys2Proof.Machine
end

