-- ==== Sys2Proof/Machine/Cond.lean ====
section
/-! DEFINITION. Conditional instructions (42_conditional.md). -/

namespace Sys2Proof.Machine

/-- `IFE b, a` (R191). -/
def execIfe (b a : Operand) (s : State) : Host.Outcome State Fault Refusal := .next (conditional condEqual b a s)

/-- `IFN b, a` (R192). -/
def execIfn (b a : Operand) (s : State) : Host.Outcome State Fault Refusal := .next (conditional condNotEqual b a s)

/-- `IFG b, a` (R193). -/
def execIfg (b a : Operand) (s : State) : Host.Outcome State Fault Refusal := .next (conditional condGreater b a s)

/-- `IFB b, a` (R194). -/
def execIfb (b a : Operand) (s : State) : Host.Outcome State Fault Refusal := .next (conditional condBits b a s)

end Sys2Proof.Machine
end

