-- ==== Sys2Proof/Machine/Extended.lean ====
section
/-! DEFINITION. Extended, one-operand instructions (43_extended.md). -/

namespace Sys2Proof.Machine

/-- `JSR a` (R211): the target is resolved first, then the return address is pushed. -/
def execJsr (a : Operand) (s : State) : Host.Outcome State Fault Refusal :=
  let target := resolveValue a s
  .next (skipGuard target.2 fun t => ((pushWord t t.pc).setPc target.1).setSkip false)

/-- `INT a` (R212): it raises a message and transfers no control itself. -/
def execInt (a : Operand) (s : State) : Host.Outcome State Fault Refusal :=
  let message := resolveValue a s
  .next (skipGuard message.2 fun t => (raiseInterrupt t message.1).setSkip false)

/-- `IAG a` (R213): `SET a, IA`, without skip guard. -/
def execIag (a : Operand) (s : State) : Host.Outcome State Fault Refusal :=
  let l := resolveLoc a s
  .next ((writeLoc l.2 l.1 l.2.ia).setSkip false)

/-- `IAS a` (R214): `SET IA, a`, without skip guard. -/
def execIas (a : Operand) (s : State) : Host.Outcome State Fault Refusal := .next (setPath .ia a s)

/-- `HWN a` (R215): no device is attached, so the number 0 is written to the operand. -/
def execHwn (a : Operand) (s : State) : Host.Outcome State Fault Refusal :=
  let l := resolveLoc a s
  .next (skipGuard l.2 fun t => (writeLoc t l.1 0x0000).setSkip false)

/-- The zeros of `HWQ`, by `hwqMode` (R216). -/
def zeroQueryRegisters (s : State) : State :=
  match s.cfg.hwqMode with
  | .abcxy => ((((s.setReg .a 0).setReg .b 0).setReg .c 0).setReg .x 0).setReg .y 0
  | .operand => s

/-- `HWQ a` (R216): the operand is only read. -/
def execHwq (a : Operand) (s : State) : Host.Outcome State Fault Refusal :=
  .next (skipGuard (resolveValue a s).2 fun t => (zeroQueryRegisters t).setSkip false)

/-- `HWI a` (R217): the operand is read, and nothing else happens. -/
def execHwi (a : Operand) (s : State) : Host.Outcome State Fault Refusal :=
  .next (skipGuard (resolveValue a s).2 fun t => t.setSkip false)

end Sys2Proof.Machine
end

