-- ==== Sys2Proof/Machine/Step.lean ====
section
/-! DEFINITION. The step: one transition at an instruction boundary, either `Dispatch` or the fetch, decode and
execution of one instruction (40_execution_cycle.md R110, R111, R135; 60_exceptions.md R248). -/

namespace Sys2Proof.Machine

/-- `Step()` (40_execution_cycle.md R111): fetch, decode, run the handler; an unassigned word is refused, with
`pc` past it and nothing else changed (30_encoding.md R89). -/
def stepInstrWith (e : Encoding) (s : State) : Host.Outcome State Fault Refusal :=
  match decodeWith e (fetchedWord s) with
  | .instr i => exec i (afterFetch s)
  | .unassigned w => .refused (.undefinedInstruction w (afterFetch s))

/-- One transition of the machine under an encoding (00_scope.md R7). -/
def stepWith (e : Encoding) (s : State) : Host.Outcome State Fault Refusal :=
  match boundary s with
  | .dispatched t => .next t
  | .proceeds t => stepInstrWith e t

/-- One transition of the machine under the spec's default encoding. -/
def step (s : State) : Host.Outcome State Fault Refusal := stepWith defaultEncoding s

/-- `s` with an instruction's words stored where the next step fetches, and that step the next transition
(log 11). -/
def State.withFetchWord (s : State) (nbits w : Nat) : State := storeInstr s nbits w

end Sys2Proof.Machine
end

