-- ==== Sys2Proof/Machine/HostOps.lean ====
section
/-! DEFINITION. The host's procedural interface (60_exceptions.md R260): what the outside, host and environment,
can do to the machine, at instruction boundaries only (log 10). -/

namespace Sys2Proof.Machine

/-- `load(image)`: words into memory from an address on, wrapping; no hook fires (20_memory.md R67). -/
def load (s : State) (start : Word) : List Word → State
  | [] => s
  | v :: rest => load (s.setMem (s.mem.write start v)) (start + 1) rest

/-- `register_hook(lo, hi, observer)`: appended to the registry (20_memory.md R59). -/
def registerHook (s : State) (lo hi : Word) (observer : Nat) : State :=
  s.setHooks (s.hooks ++ [{ lo := lo, hi := hi, observer := observer }])

/-- The environment's `dispatch`: `Dispatch()` when `irqMode` permits it (R248, R260). Where it does not, or its
precondition fails, the move does not exist and nothing happens (DESIGN CHOICE, log 17). -/
def environmentDispatch (s : State) : State :=
  if dispatchReady s && decide (s.cfg.irqMode ≠ .never) then dispatchHere s else s

/-- The state in which the next instruction begins: under `EAGER` an enabled dispatch is taken first (R248). -/
def settleBoundary (s : State) : State :=
  if s.cfg.irqMode = .eager then environmentDispatch s else s

/-- The host's `step()`: exactly one instruction (40_execution_cycle.md R110, R260), after the dispatch that `EAGER`
puts before it (log 17). Under `ANY_BOUNDARY` it takes no dispatch: that is the environment's own move. -/
def hostStep (s : State) : Host.Outcome State Fault Refusal := stepInstrWith defaultEncoding (settleBoundary s)

/-- The operations at the core's boundary (R260): the host's, and the environment's `dispatch`. -/
inductive HostOp where
  | construct
  | load (start : Word) (image : List Word)
  | step
  | registerHook (lo hi : Word) (observer : Nat)
  | raiseInterrupt (m : Word)
  | dispatch
deriving DecidableEq, Repr

/-- What one operation does (R260). DESIGN CHOICE (log 16): `construct` puts back the whole of `State.reset`, so a
machine constructed anew has the default configuration, whatever the present one is, and the model's own `trace`,
`dispatched` and `fresh` start again; R260 and R270 name no configuration. -/
def hostApply (s : State) : HostOp → Host.Outcome State Fault Refusal
  | .construct => .next State.reset
  | .load start image => .next (load s start image)
  | .step => hostStep s
  | .registerHook lo hi observer => .next (registerHook s lo hi observer)
  | .raiseInterrupt m => .next (raiseInterrupt s m)
  | .dispatch => .next (environmentDispatch s)

end Sys2Proof.Machine
end

