-- ==== Sys2Proof/Safety.lean ====
section
/-! DEFINITION. The terms in which claims speak: the operand table of 30_encoding.md R83 in closed form, the
field-by-field postcondition of an instruction, the invariant of every transition, safe runs. -/

namespace Sys2Proof

/-- How an operand's resolution moves `sp` (R83: POP up by one, PUSH down by one). -/
def Operand.spShift : Operand → Word
  | .pop => 1
  | .push => 0xFFFF
  | .reg _ | .ind _ | .indNext _ | .peek | .sp | .pc | .ex | .ia | .imm | .lit _ | .invalid _ => 0

/-- The conditionals (42_conditional.md). -/
def Instr.isConditional : Instr → Bool
  | .ife _ _ | .ifn _ _ | .ifg _ _ | .ifb _ _ => true
  | .set _ _ | .add _ _ | .sub _ _ | .mul _ _ | .div _ _ | .mod _ _ | .shl _ _ | .shr _ _ | .and _ _
  | .bor _ _ | .xor _ _ | .jsr _ | .int _ | .iag _ | .ias _ | .hwn _ | .hwq _ | .hwi _ => false

/-- The operand an instruction writes through its locator, if it writes one (R150, R151, R213, R214, R215). -/
def Instr.destination : Instr → Option Operand
  | .set b _ | .add b _ | .sub b _ | .mul b _ | .div b _ | .mod b _ | .shl b _ | .shr b _ | .and b _
  | .bor b _ | .xor b _ => some b
  | .iag a | .hwn a => some a
  | .ias _ => some .ia
  | .ife _ _ | .ifn _ _ | .ifg _ _ | .ifb _ _ | .jsr _ | .int _ | .hwq _ | .hwi _ => none

/-- The operands an instruction resolves. -/
def Instr.operands : Instr → List Operand
  | .set b a | .add b a | .sub b a | .mul b a | .div b a | .mod b a | .shl b a | .shr b a
  | .and b a | .bor b a | .xor b a | .ife b a | .ifn b a | .ifg b a | .ifb b a => [b, a]
  | .jsr a | .int a | .iag a | .ias a | .hwn a | .hwq a | .hwi a => [a]

/-- The instruction writes `ex` as its overflow, under a configuration (10_state.md R25). -/
def Instr.writesEx (c : Config) : Instr → Bool
  | .add _ _ | .sub _ _ | .mul _ _ | .div _ _ | .shl _ _ | .shr _ _ => true
  | .mod _ _ => decide (c.modEx = .zeroOnDivZero)
  | .set _ _ | .and _ _ | .bor _ _ | .xor _ _ | .ife _ _ | .ifn _ _ | .ifg _ _ | .ifb _ _ | .jsr _ | .int _
  | .iag _ | .ias _ | .hwn _ | .hwq _ | .hwi _ => false

/-- The instruction can write `pc` otherwise than by consuming its words: a `PC` destination, or `JSR`
(10_state.md R23). -/
def Instr.writesPc (i : Instr) : Bool :=
  match i with
  | .jsr _ => true
  | _ => decide (i.destination = some .pc)

end Sys2Proof

namespace Sys2Proof.Machine

/-- The state after an operand is resolved in normal mode (R83): only `pc` and `sp` move. -/
def afterOperand (o : Operand) (s : State) : State :=
  { s with pc := s.pc + BitVec.ofNat 16 o.nextWords, sp := s.sp + o.spShift }

/-- The cell an operand names, if it names one (R83, column "storage locator"). -/
def operandCell (o : Operand) (s : State) : Option Word :=
  match o with
  | .ind r => some (s.reg r)
  | .indNext r => some (s.reg r + memRead s s.pc)
  | .pop | .peek => some s.sp
  | .push => some (s.sp - 1)
  | .reg _ | .sp | .pc | .ex | .ia | .imm | .lit _ | .invalid _ => none

/-- An operand's storage locator in normal mode (R83). -/
def operandLoc (o : Operand) (s : State) : Loc :=
  match operandCell o s with
  | some addr => .mem addr
  | none =>
    match o with
    | .reg r => .reg r
    | .sp => .spc .sp
    | .pc => .spc .pc
    | .ex => .spc .ex
    | .ia => .spc .ia
    | .ind _ | .indNext _ | .pop | .peek | .push | .imm | .lit _ | .invalid _ => .discard

/-- An operand's value in normal mode (R83, R84, R91). -/
def operandValue (o : Operand) (s : State) : Word :=
  match operandCell o s with
  | some addr => memRead s addr
  | none =>
    match o with
    | .reg r => s.reg r
    | .sp => s.sp
    | .pc => s.pc
    | .ex => s.ex
    | .ia => s.ia
    | .imm => memRead s s.pc
    | .lit code => literalValue s.cfg.literal code
    | .ind _ | .indNext _ | .pop | .peek | .push | .invalid _ => 0

/-- Both operands resolved, `b` first (40_execution_cycle.md R127, R128). -/
def afterOperands (b a : Operand) (s : State) : State := afterOperand a (afterOperand b s)

/-- The source's value, resolved after `b` (R127, R128). -/
def sourceValue (b a : Operand) (s : State) : Word := operandValue a (afterOperand b s)

/-- `ex` after an instruction that writes `r` through `l` and `e` to `ex`, from `old` (R162). -/
def exAfter (order : ExDestOrder) (l : Loc) (r : Word) (e : Option Word) (old : Word) : Word :=
  if l = .spc .ex then
    match order, e with
    | .destFirst, some v => v
    | .destFirst, none => r
    | .exFirst, _ => r
  else e.getD old

/-- The fields no instruction but the interrupt ones writes, and none ever: `queue`, `hooks`, the configuration,
and the model's own `dispatched` and `fresh`. -/
def KeepsInterruptsAndSetup (m t : State) : Prop :=
  t.queue = m.queue ∧ t.hooks = m.hooks ∧ t.cfg = m.cfg ∧ t.dispatched = m.dispatched ∧ t.fresh = m.fresh

/-- Every field of the state `t` in which an instruction ends that, with its operands resolved to `m`, writes `r`
through the locator `l` and `e` to `ex` and clears `skip` (40_execution_cycle.md R126, R131): the written place
holds `r`, the hooks of a written cell fired, everything else is as in `m`. -/
def EndsWriting (m t : State) (l : Loc) (r : Word) (e : Option Word) : Prop :=
  (∀ k, t.reg k = if l = .reg k then r else m.reg k)
  ∧ t.pc = (if l = .spc .pc then r else m.pc)
  ∧ t.sp = (if l = .spc .sp then r else m.sp)
  ∧ t.ia = (if l = .spc .ia then r else m.ia)
  ∧ t.ex = exAfter m.cfg.exDestOrder l r e m.ex
  ∧ (∀ addr, memRead t addr = if l = .mem addr then r else memRead m addr)
  ∧ (∀ addr, l = .mem addr → t.trace = m.trace ++ eventsAt m.hooks addr)
  ∧ ((∀ addr, l ≠ .mem addr) → t.trace = m.trace ∧ t.mem = m.mem)
  ∧ t.discard = (if l = .discard then r else m.discard)
  ∧ t.skip = false
  ∧ KeepsInterruptsAndSetup m t

/-- Every word with `op` in `w[3:0]` decodes to the basic instruction of its operand fields (R81). -/
def BasicOpcodeDecodes (op : BitVec 4) (f : Operand → Operand → Instr) : Prop :=
  ∀ w : Word, fieldAt w 0 4 = op →
    decode w = .instr (f (operandAt defaultEncoding (fieldAt w 4 6)) (operandAt defaultEncoding (fieldAt w 10 6)))

/-- Every word with `op` 0 and `eop` in `w[9:4]` decodes to the extended instruction of its operand field (R82). -/
def ExtOpcodeDecodes (eop : BitVec 6) (f : Operand → Instr) : Prop :=
  ∀ w : Word, fieldAt w 0 4 = 0 → fieldAt w 4 6 = eop →
    decode w = .instr (f (operandAt defaultEncoding (fieldAt w 10 6)))

/-- The condition of a conditional, on the values of its operands (R191 to R194); false of any other instruction. -/
def conditionHolds (i : Instr) (s : State) : Bool :=
  match i with
  | .ife b a => decide (operandValue b s = sourceValue b a s)
  | .ifn b a => decide (operandValue b s ≠ sourceValue b a s)
  | .ifg b a => decide (sourceValue b a s < operandValue b s)
  | .ifb b a => decide (operandValue b s &&& sourceValue b a s ≠ 0)
  | .set _ _ | .add _ _ | .sub _ _ | .mul _ _ | .div _ _ | .mod _ _ | .shl _ _ | .shr _ _ | .and _ _
  | .bor _ _ | .xor _ _ | .jsr _ | .int _ | .iag _ | .ias _ | .hwn _ | .hwq _ | .hwi _ => false

/-- The trace tells only of registered observers and addresses their ranges cover (20_memory.md R54). -/
def TraceFromHooks (s : State) : Prop :=
  ∀ e ∈ s.trace, ∃ h ∈ s.hooks, h.observer = e.observer ∧ h.lo ≤ e.addr ∧ e.addr ≤ h.hi

/-- The invariant every transition keeps: memory is canonical, no dispatch stands between a failed conditional
and the instruction it skips (60_exceptions.md R248), and the trace tells only of covering hooks. -/
def State.Inv (s : State) : Prop :=
  s.mem.wf ∧ (s.dispatched = true → s.skip = false) ∧ TraceFromHooks s

/-- Some run of `step`, without a move of the host (log 10), leads from `s` to `t`. -/
inductive Reaches : State → State → Prop where
  | refl (s : State) : Reaches s s
  | tail {s t u : State} : Reaches s t → step t = .next u → Reaches s u

/-- A safe state: no run of `step` from it, without a move of the host (log 10), meets a refused step. -/
def Safe (s : State) : Prop := ∀ t, Reaches s t → ∃ u, step t = .next u

end Sys2Proof.Machine
end

