-- ==== Sys2Proof/Certificates/Slice0/Obligations.lean ====
section
/-! DEFINITION. The statements for the provers. Opcode, operand and field numbers are the spec's own decisions
D1 to D5 (92_eei_decisions.md); where a statement rests on another of its decisions its docstring names it. -/

open Sys2Proof Sys2Proof.Machine

/-! Encoding. -/

/-- Every well-formed instruction has a word, and that word decodes to it (R92, R111; numbers D1 to D4). -/
def Obligations.DecodeInvertsEncode : Prop :=
  ∀ i : Instr, i.wf = true → ∃ w, encode i = some w ∧ decode w = .instr i

/-- A word that decodes to an instruction is the one word of that instruction, which is well formed (R90, R112). -/
def Obligations.EncodeInvertsDecode : Prop :=
  ∀ (w : Word) (i : Instr), decode w = .instr i → i.wf = true ∧ encode i = some w

/-- The unassigned words are those with `w[3:0] = 0` and a `w[9:4]` outside the extended table; every other word
is an instruction (R89, R90, R112; numbers D2, D3). -/
def Obligations.UnassignedWordsAreExactly : Prop :=
  ∀ w : Word,
    (decode w = .unassigned w ↔
      fieldAt w 0 4 = 0 ∧ fieldAt w 4 6 ∉ ([0x01, 0x08, 0x09, 0x0A, 0x10, 0x11, 0x12] : List (BitVec 6)))
    ∧ (decode w = .unassigned w ∨ ∃ i, decode w = .instr i)

/-- The opcode map: each basic `op` and each extended `eop` decodes to its instruction with the operands of its
operand fields, whatever they are (R81, R82, R87, R88; numbers D1 to D3). And the operand map: the operand of each
of the 64 codes (R83; numbers D4, register order D26). -/
def Obligations.OpcodeMap : Prop :=
  BasicOpcodeDecodes 0x1 .set ∧ BasicOpcodeDecodes 0x2 .add ∧ BasicOpcodeDecodes 0x3 .sub
  ∧ BasicOpcodeDecodes 0x4 .mul ∧ BasicOpcodeDecodes 0x5 .div ∧ BasicOpcodeDecodes 0x6 .mod
  ∧ BasicOpcodeDecodes 0x7 .shl ∧ BasicOpcodeDecodes 0x8 .shr ∧ BasicOpcodeDecodes 0x9 .and
  ∧ BasicOpcodeDecodes 0xA .bor ∧ BasicOpcodeDecodes 0xB .xor ∧ BasicOpcodeDecodes 0xC .ife
  ∧ BasicOpcodeDecodes 0xD .ifn ∧ BasicOpcodeDecodes 0xE .ifg ∧ BasicOpcodeDecodes 0xF .ifb
  ∧ ExtOpcodeDecodes 0x01 .jsr ∧ ExtOpcodeDecodes 0x08 .int ∧ ExtOpcodeDecodes 0x09 .iag
  ∧ ExtOpcodeDecodes 0x0A .ias ∧ ExtOpcodeDecodes 0x10 .hwn ∧ ExtOpcodeDecodes 0x11 .hwq
  ∧ ExtOpcodeDecodes 0x12 .hwi
  ∧ (∀ (n : Nat) (r : Reg), [Reg.a, .b, .c, .x, .y, .z, .i, .j][n]? = some r →
      operandAt defaultEncoding (BitVec.ofNat 6 n) = .reg r
      ∧ operandAt defaultEncoding (BitVec.ofNat 6 (0x08 + n)) = .ind r
      ∧ operandAt defaultEncoding (BitVec.ofNat 6 (0x10 + n)) = .indNext r)
  ∧ operandAt defaultEncoding 0x18 = .pop ∧ operandAt defaultEncoding 0x19 = .peek
  ∧ operandAt defaultEncoding 0x1A = .push ∧ operandAt defaultEncoding 0x1B = .sp
  ∧ operandAt defaultEncoding 0x1C = .pc ∧ operandAt defaultEncoding 0x1D = .ex
  ∧ operandAt defaultEncoding 0x1E = .ia ∧ operandAt defaultEncoding 0x1F = .imm
  ∧ ∀ code : BitVec 6, 0x20 ≤ code → operandAt defaultEncoding code = .lit code

/-- Some words of 95_test_vectors.md decode to the instructions they stand for, one per family and operand class. -/
def Obligations.SpecWordsDecode : Prop :=
  decode 0x7C01 = .instr (.set (.reg .a) .imm) ∧ decode 0x95A2 = .instr (.add .push (.lit 0x25))
  ∧ decode 0x85C3 = .instr (.sub .pc (.lit 0x21)) ∧ decode 0x5802 = .instr (.add (.reg .a) (.indNext .i))
  ∧ decode 0x618C = .instr (.ife .pop .pop) ∧ decode 0x1A4E = .instr (.ifg (.lit 0x24) (.reg .i))
  ∧ decode 0x6C11 = .instr (.set (.reg .b) .sp) ∧ decode 0x2090 = .instr (.iag (.ind .a))
  ∧ decode 0x61C1 = .instr (.set .pc .pop) ∧ decode 0x7CA0 = .instr (.ias .imm)

/-- The length of an instruction follows from its first word by the next-word count of its operand codes, which
is 1 for 0x10..0x17 and 0x1F and 0 otherwise (R85, R86; numbers D1 to D4). -/
def Obligations.LengthFromFirstWord : Prop :=
  let nw : BitVec 6 → Nat := fun code => if (0x10 ≤ code ∧ code ≤ 0x17) ∨ code = 0x1F then 1 else 0
  ∀ (w : Word) (i : Instr), decode w = .instr i →
    i.length = 1 + (if fieldAt w 0 4 = 0 then 0 else nw (fieldAt w 4 6)) + nw (fieldAt w 10 6)

/-! The operand resolver. -/

/-- `ResolveLoc` in normal mode gives the locator of the operand table and moves only `pc` and `sp`, by the
table's amounts (R83, R116). -/
def Obligations.LocatorTable : Prop :=
  ∀ (o : Operand) (s : State), s.skip = false → resolveLoc o s = (operandLoc o s, afterOperand o s)

/-- `ResolveValue` in normal mode gives the value of the operand table, with the same side effect (R83, R118). -/
def Obligations.ValueTable : Prop :=
  ∀ (o : Operand) (s : State), s.skip = false → resolveValue o s = (operandValue o s, afterOperand o s)

/-- `ResolveLoc` in skip mode: `Discard`, and no state change but the consumed next word, whatever the operand
(R117). -/
def Obligations.SkipModeLocator : Prop :=
  ∀ (o : Operand) (s : State), s.skip = true →
    resolveLoc o s = (.discard, { s with pc := s.pc + BitVec.ofNat 16 o.nextWords })

/-- `ResolveValue` in skip mode changes only `pc`, by the next word (R119); `fresh` is the model's own index of
free values, from which the unstated value is drawn (log 5). -/
def Obligations.SkipModeValue : Prop :=
  ∀ (o : Operand) (s : State), s.skip = true →
    (resolveValue o s).2 = { s with pc := s.pc + BitVec.ofNat 16 o.nextWords, fresh := s.fresh + 1 }

/-- "Resolve once", right after the destination's locator, reads what the locator names, or the immediate or
literal of a read-only destination (R120, R121). -/
def Obligations.ResolveOnceReadsTheLocator : Prop :=
  ∀ (o : Operand) (s : State), s.skip = false →
    ((resolveLoc o s).1 ≠ .discard → resolveOnce o (resolveLoc o s).2 = readLoc (resolveLoc o s).2 (resolveLoc o s).1)
    ∧ resolveOnce o (resolveLoc o s).2 = operandValue o s

/-- In both modes both resolvers advance `pc` by the operand's next-word count, and an instruction that does not
write `pc`, or is skipped, advances it by its operand words (R123, R245). -/
def Obligations.WordConsumption : Prop :=
  (∀ (o : Operand) (s : State),
    (resolveLoc o s).2.pc = s.pc + BitVec.ofNat 16 o.nextWords
    ∧ (resolveValue o s).2.pc = s.pc + BitVec.ofNat 16 o.nextWords)
  ∧ ∀ (i : Instr) (s t : State), exec i s = .next t → (s.skip = true ∨ i.writesPc = false) →
      t.pc = s.pc + BitVec.ofNat 16 i.nextWords

/-- Round trip (R137): a word written through the locator of an operand without side effect is its value
afterwards; for POP, PUSH and register-indirect + next word "resolve once" reads it back, provided the write did
not hit the operand's own next word (log 13); a literal or immediate keeps its value. -/
def Obligations.LocatorRoundTrip : Prop :=
  ∀ (o : Operand) (s : State) (v : Word), s.skip = false →
    (o.nextWords = 0 → o.spShift = 0 → operandLoc o s ≠ .discard →
      (resolveValue o (writeLoc (resolveLoc o s).2 (resolveLoc o s).1 v)).1 = v)
    ∧ ((o = .pop ∨ o = .push ∨ ((∃ r, o = .indNext r) ∧ operandCell o s ≠ some s.pc)) →
        resolveOnce o (writeLoc (resolveLoc o s).2 (resolveLoc o s).1 v) = v)
    ∧ (operandLoc o s = .discard →
        resolveOnce o (writeLoc (resolveLoc o s).2 (resolveLoc o s).1 v) = operandValue o s)

/-- The literals of the default map (R84; numbers D4, D5): code 0x20 + n has value n, is not addressable, and
resolving it changes nothing. -/
def Obligations.LiteralValues : Prop :=
  ∀ (n : Nat) (s : State), n < 32 → s.skip = false → s.cfg.literal = .minus20 →
    resolveValue (operandAt defaultEncoding (BitVec.ofNat 6 (0x20 + n))) s = (BitVec.ofNat 16 n, s)
    ∧ resolveLoc (operandAt defaultEncoding (BitVec.ofNat 6 (0x20 + n))) s = (.discard, s)

/-! Results of the instructions in normal mode, for every operand form: `EndsWriting` says every field. -/

/-- `SET` (R151; `b` before `a` is D7): the source's value is written, `ex` is not. -/
def Obligations.SetResult : Prop :=
  ∀ (b a : Operand) (s : State), s.skip = false → ∃ t, exec (.set b a) s = .next t
    ∧ EndsWriting (afterOperands b a s) t (operandLoc b s) (sourceValue b a s) none

/-- `ADD` (R152): the wrapped sum, `ex` the carry. -/
def Obligations.AddResult : Prop :=
  ∀ (b a : Operand) (s : State), s.skip = false → ∃ t, exec (.add b a) s = .next t
    ∧ EndsWriting (afterOperands b a s) t (operandLoc b s) (operandValue b s + sourceValue b a s)
        (some (if (operandValue b s).toNat + (sourceValue b a s).toNat < 65536 then 0 else 1))

/-- `SUB` (R153): `b - a` wrapped, `ex` 0xFFFF on borrow and 0 otherwise (the 0 is D8). -/
def Obligations.SubResult : Prop :=
  ∀ (b a : Operand) (s : State), s.skip = false → ∃ t, exec (.sub b a) s = .next t
    ∧ EndsWriting (afterOperands b a s) t (operandLoc b s) (operandValue b s - sourceValue b a s)
        (some (if operandValue b s < sourceValue b a s then 0xFFFF else 0))

/-- `MUL` (R154): the low word of the product, `ex` its high word. -/
def Obligations.MulResult : Prop :=
  ∀ (b a : Operand) (s : State), s.skip = false → ∃ t, exec (.mul b a) s = .next t
    ∧ EndsWriting (afterOperands b a s) t (operandLoc b s) (operandValue b s * sourceValue b a s)
        (some (BitVec.ofNat 16 ((operandValue b s).toNat * (sourceValue b a s).toNat / 65536)))

/-- `DIV` (R155): the unsigned quotient, 0 by zero with `ex` 0; otherwise `ex` by `divEx` (default and
alternatives are D9). -/
def Obligations.DivResult : Prop :=
  ∀ (b a : Operand) (s : State), s.skip = false → ∃ t, exec (.div b a) s = .next t
    ∧ EndsWriting (afterOperands b a s) t (operandLoc b s) (operandValue b s / sourceValue b a s)
        (if sourceValue b a s = 0 then some 0
         else match s.cfg.divEx with
          | .fraction =>
            some (BitVec.ofNat 16 ((operandValue b s).toNat * 65536 / (sourceValue b a s).toNat))
          | .zero => some 0
          | .unchanged => none)

/-- `MOD` (R156): the unsigned remainder, 0 by zero; `ex` by `modEx`, unchanged under the default (D10). -/
def Obligations.ModResult : Prop :=
  ∀ (b a : Operand) (s : State), s.skip = false → ∃ t, exec (.mod b a) s = .next t
    ∧ EndsWriting (afterOperands b a s) t (operandLoc b s)
        (if sourceValue b a s = 0 then 0 else operandValue b s % sourceValue b a s)
        (if s.cfg.modEx = .zeroOnDivZero ∧ sourceValue b a s = 0 then some 0 else none)

/-- `SHL` (R157; exact for every amount, D12): `b * 2^a`, low word to the destination, next word up to `ex`. -/
def Obligations.ShlResult : Prop :=
  ∀ (b a : Operand) (s : State), s.skip = false → ∃ t, exec (.shl b a) s = .next t
    ∧ EndsWriting (afterOperands b a s) t (operandLoc b s)
        (BitVec.ofNat 16 ((operandValue b s).toNat * 2 ^ (sourceValue b a s).toNat))
        (some (BitVec.ofNat 16 ((operandValue b s).toNat * 2 ^ (sourceValue b a s).toNat / 65536)))

/-- `SHR` (R158; exact for every amount, D12): `b / 2^a`, and `ex` the low word of `b * 65536 / 2^a`. -/
def Obligations.ShrResult : Prop :=
  ∀ (b a : Operand) (s : State), s.skip = false → ∃ t, exec (.shr b a) s = .next t
    ∧ EndsWriting (afterOperands b a s) t (operandLoc b s)
        (BitVec.ofNat 16 ((operandValue b s).toNat / 2 ^ (sourceValue b a s).toNat))
        (some (BitVec.ofNat 16 ((operandValue b s).toNat * 65536 / 2 ^ (sourceValue b a s).toNat)))

/-- The corners of the shifts (R157, R158; D12) on a destination that is not `EX`: amount 0 clears `ex`, 16 moves
the word into `ex`, 32 and more clear both. -/
def Obligations.ShiftCorners : Prop :=
  ∀ (b a : Operand) (s : State), s.skip = false → operandLoc b s ≠ .spc .ex →
    ∃ t u, exec (.shl b a) s = .next t ∧ exec (.shr b a) s = .next u
    ∧ (sourceValue b a s = 0 → t.ex = 0 ∧ u.ex = 0)
    ∧ (sourceValue b a s = 16 → t.ex = operandValue b s ∧ u.ex = operandValue b s)
    ∧ (32 ≤ (sourceValue b a s).toNat →
        t.ex = 0 ∧ u.ex = 0 ∧ (∀ k, operandLoc b s = .reg k → t.reg k = 0 ∧ u.reg k = 0)
        ∧ ∀ addr, operandLoc b s = .mem addr → memRead t addr = 0 ∧ memRead u addr = 0)

/-- `AND`, `BOR`, `XOR` (R159, R160, R161; that they exist is the spec's general knowledge G1, that `ex` is not
written D11). -/
def Obligations.BitwiseResults : Prop :=
  ∀ (b a : Operand) (s : State), s.skip = false →
    (∃ t, exec (.and b a) s = .next t
      ∧ EndsWriting (afterOperands b a s) t (operandLoc b s) (operandValue b s &&& sourceValue b a s) none)
    ∧ (∃ t, exec (.bor b a) s = .next t
      ∧ EndsWriting (afterOperands b a s) t (operandLoc b s) (operandValue b s ||| sourceValue b a s) none)
    ∧ (∃ t, exec (.xor b a) s = .next t
      ∧ EndsWriting (afterOperands b a s) t (operandLoc b s) (operandValue b s ^^^ sourceValue b a s) none)

/-- The conditionals (R190 to R194; `b` before `a` is D7): every operand's side effect, then `skip` is the failed
condition; nothing else changes. -/
def Obligations.ConditionalResults : Prop :=
  ∀ (b a : Operand) (s : State), s.skip = false →
    exec (.ife b a) s = .next { afterOperands b a s with skip := decide (operandValue b s ≠ sourceValue b a s) }
    ∧ exec (.ifn b a) s = .next { afterOperands b a s with skip := decide (operandValue b s = sourceValue b a s) }
    ∧ exec (.ifg b a) s = .next { afterOperands b a s with skip := decide (operandValue b s ≤ sourceValue b a s) }
    ∧ exec (.ifb b a) s
        = .next { afterOperands b a s with skip := decide (operandValue b s &&& sourceValue b a s = 0) }

/-- `JSR` (R211): the target is resolved first, then the return address is pushed below the stack pointer that
this left, firing the hooks there, and `pc` takes the target; nothing else changes. -/
def Obligations.JsrResult : Prop :=
  ∀ (a : Operand) (s : State), s.skip = false → ∃ t, exec (.jsr a) s = .next t
    ∧ t.pc = operandValue a s
    ∧ t.sp = (afterOperand a s).sp - 1
    ∧ (∀ addr, memRead t addr
        = if addr = (afterOperand a s).sp - 1 then s.pc + BitVec.ofNat 16 a.nextWords else memRead s addr)
    ∧ t.trace = s.trace ++ eventsAt s.hooks ((afterOperand a s).sp - 1)
    ∧ (∀ k, t.reg k = s.reg k) ∧ t.ex = s.ex ∧ t.ia = s.ia ∧ t.skip = false ∧ t.discard = s.discard
    ∧ KeepsInterruptsAndSetup s t

/-- `INT` (R212, R247; that the test of `ia` is made when the message is raised is D17): the message joins the
queue's end unless `ia` is 0; control does not leave. -/
def Obligations.IntResult : Prop :=
  ∀ (a : Operand) (s : State), s.skip = false →
    exec (.int a) s = .next { afterOperand a s with
      queue := if s.ia = 0 then s.queue else s.queue ++ [operandValue a s] }

/-- `IAG` (R213): `ia` is written to the operand. -/
def Obligations.IagResult : Prop :=
  ∀ (a : Operand) (s : State), s.skip = false → ∃ t, exec (.iag a) s = .next t
    ∧ EndsWriting (afterOperand a s) t (operandLoc a s) s.ia none

/-- `IAS` (R214): the operand's value is written to `ia`; queued messages stay. -/
def Obligations.IasResult : Prop :=
  ∀ (a : Operand) (s : State), s.skip = false →
    exec (.ias a) s = .next { afterOperand a s with ia := operandValue a s }

/-- `HWN` (R215; that the zero goes to the operand is D15). -/
def Obligations.HwnResult : Prop :=
  ∀ (a : Operand) (s : State), s.skip = false → ∃ t, exec (.hwn a) s = .next t
    ∧ EndsWriting (afterOperand a s) t (operandLoc a s) 0 none

/-- `HWQ` and `HWI` (R216, R217; where `HWQ` writes its zeros is D14): the operand's side effects, the zeros of
the configured mode for `HWQ`, no hook, and nothing else. -/
def Obligations.HwqHwiResults : Prop :=
  ∀ (a : Operand) (s : State), s.skip = false →
    exec (.hwq a) s = .next (match s.cfg.hwqMode with
      | .abcxy => { afterOperand a s with regs := { s.regs with a := 0, b := 0, c := 0, x := 0, y := 0 } }
      | .operand => afterOperand a s)
    ∧ exec (.hwi a) s = .next (afterOperand a s)

/-- Division and remainder by zero are no fault: the destination becomes 0 and `DIV` leaves 0 in `ex`, while
`MOD` leaves `ex` to `modEx` (R242). -/
def Obligations.DivideByZeroIsDefined : Prop :=
  ∀ (b a : Operand) (s : State), s.skip = false → sourceValue b a s = 0 →
    (∃ t, exec (.div b a) s = .next t
      ∧ EndsWriting (afterOperands b a s) t (operandLoc b s) 0 (some 0))
    ∧ (∃ t, exec (.mod b a) s = .next t
      ∧ EndsWriting (afterOperands b a s) t (operandLoc b s) 0
          (if s.cfg.modEx = .zeroOnDivZero then some 0 else none))

/-- A write of the value a cell already holds fires the cell's hooks all the same (R55): memory reads as before and
the events are there, for every memory write of the machine, and so for `SET` to a cell. -/
def Obligations.HooksFireOnUnchangedValue : Prop :=
  (∀ (s : State) (addr : Word), let t := memWrite s addr (memRead s addr)
    (∀ x, memRead t x = memRead s x) ∧ t.trace = s.trace ++ eventsAt s.hooks addr)
  ∧ ∀ (b a : Operand) (s : State) (addr : Word), s.skip = false → operandCell b s = some addr →
    sourceValue b a s = memRead s addr →
    ∃ t, exec (.set b a) s = .next t ∧ (∀ x, memRead t x = memRead s x)
      ∧ t.trace = s.trace ++ eventsAt s.hooks addr

/-! Skipping. -/

/-- A step that begins with a pending skip and decodes an instruction changes only `pc`, by the instruction's
length, and `skip` (R134, R136, R195, R196); `discard` may change, and the model's own `fresh` and `dispatched`. -/
def Obligations.SkipIsolation : Prop :=
  ∀ (s : State) (i : Instr), s.skip = true → decode (memRead s s.pc) = .instr i →
    ∃ t, step s = .next t
      ∧ t = { s with pc := s.pc + BitVec.ofNat 16 i.length, skip := false, discard := t.discard, fresh := t.fresh,
                     dispatched := false }

/-- Every handler clears `skip` but an unskipped conditional (R131). -/
def Obligations.HandlersClearSkip : Prop :=
  ∀ (i : Instr) (s t : State), exec i s = .next t → (i.isConditional = false ∨ s.skip = true) → t.skip = false

/-- After a completed instruction `skip` is set iff it was an unskipped conditional whose condition failed
(R136). -/
def Obligations.SkipFlagAfterStep : Prop :=
  ∀ s t : State, stepInstrWith defaultEncoding s = .next t →
    ∃ i, decode (memRead s s.pc) = .instr i
      ∧ (t.skip = true ↔
          i.isConditional = true ∧ s.skip = false ∧ conditionHolds i { s with pc := s.pc + 1 } = false)

/-! Whole-machine rules. -/

/-- What any instruction may change, in either mode, and that it changes nothing else (R24, R25, R26, R32, R53),
field by field: a register only as destination or by `HWQ`, `ia` only as destination, `ex` only as destination or by
the overflow-writing instructions, `sp` only as destination, by a POP or PUSH operand or by `JSR`, the queue only by
`INT`, memory only in the cell that the destination operand or the push of `JSR` names, the trace only by such a
cell's events, `discard` only as destination, `pc` otherwise than past the operand words only as destination or by
`JSR`, `skip` to true only by an unskipped conditional (R136); the model's own `fresh` moves in skip mode only
(log 5). -/
def Obligations.FrameOfEveryInstruction : Prop :=
  ∀ (i : Instr) (s t : State), exec i s = .next t →
    let storesTo : Word → Prop := fun x =>
      (∃ o, i.destination = some o ∧ operandCell o s = some x)
      ∨ (∃ a, i = .jsr a ∧ x = (afterOperand a s).sp - 1)
    (∀ k, t.reg k ≠ s.reg k → i.destination = some (.reg k)
      ∨ ((∃ a, i = .hwq a) ∧ s.cfg.hwqMode = .abcxy ∧ k ∈ [Reg.a, .b, .c, .x, .y]))
    ∧ (t.ia ≠ s.ia → i.destination = some .ia)
    ∧ (t.ex ≠ s.ex → i.destination = some .ex ∨ i.writesEx s.cfg = true)
    ∧ (t.sp ≠ s.sp → i.destination = some .sp ∨ .pop ∈ i.operands ∨ .push ∈ i.operands ∨ ∃ a, i = .jsr a)
    ∧ (t.queue ≠ s.queue → s.ia ≠ 0 ∧ ∃ a, i = .int a)
    ∧ (∀ x, memRead t x ≠ memRead s x → storesTo x)
    ∧ (t.trace ≠ s.trace → ∃ x, storesTo x ∧ t.trace = s.trace ++ eventsAt s.hooks x)
    ∧ (t.discard ≠ s.discard →
        (s.skip = false ∧ ∃ o, i.destination = some o ∧ operandLoc o s = .discard)
        ∨ (s.skip = true ∧ ((∃ b a, i = .set b a) ∨ (∃ a, i = .iag a) ∨ ∃ a, i = .ias a)))
    ∧ (t.pc ≠ s.pc + BitVec.ofNat 16 i.nextWords → s.skip = false ∧ i.writesPc = true)
    ∧ (t.skip = true → s.skip = false ∧ i.isConditional = true)
    ∧ (s.skip = true → t = { s with pc := t.pc, skip := t.skip, discard := t.discard, fresh := t.fresh })
    ∧ (s.skip = false → t.fresh = s.fresh)
    ∧ t.hooks = s.hooks ∧ t.cfg = s.cfg ∧ t.dispatched = s.dispatched

/-- Which registrations a memory write notifies, said of the registry alone (R53, R54, R57): the registrations are
asked in their order, each makes the one event `(observer, addr, WRITE)` if its inclusive range covers the address
and none otherwise, and a range with `lo > hi` never does (D20). -/
def Obligations.HooksThatFire : Prop :=
  (∀ (s : State) (addr v : Word),
    (memWrite s addr v).trace = s.trace ++ eventsAt s.hooks addr ∧ (memWrite s addr v).hooks = s.hooks)
  ∧ (∀ addr : Word, eventsAt [] addr = [])
  ∧ (∀ (h : Hook) (hs : List Hook) (addr : Word),
      eventsAt (h :: hs) addr
        = (if h.lo ≤ addr ∧ addr ≤ h.hi then [{ observer := h.observer, addr := addr, kind := .write }] else [])
          ++ eventsAt hs addr)
  ∧ ∀ (h : Hook) (hs : List Hook) (addr : Word), h.hi < h.lo → eventsAt (h :: hs) addr = eventsAt hs addr

/-- Every change of memory by a transition is notified: if a cell reads differently after it, the events of that
cell, one per covering registration in registration order, stand in a row in what the transition added to the
trace (R53, R54). -/
def Obligations.MemoryChangesAreNotified : Prop :=
  ∀ (s t : State), step s = .next t → ∃ added, t.trace = s.trace ++ added
    ∧ ∀ x, memRead t x ≠ memRead s x → ∃ pre post, added = pre ++ eventsAt s.hooks x ++ post

/-- No transition changes the hook registry or the configuration (R7, R29, R59). -/
def Obligations.StepKeepsHooksAndConfiguration : Prop :=
  ∀ s t : State, step s = .next t → t.hooks = s.hooks ∧ t.cfg = s.cfg

/-! Interrupts. -/

/-- Dispatch with interrupts enabled (R248, R251; the order of the pushes is D27): the head leaves the queue,
`pc` and A are pushed, control goes to `ia` with the message in A, the two pushed cells' hooks fire in order, and
nothing else changes. -/
def Obligations.DispatchDelivers : Prop :=
  ∀ (s : State) (m : Word) (rest : List Word), s.queue = m :: rest → s.ia ≠ 0 →
    let t := dispatch s
    t.queue = rest ∧ t.pc = s.ia ∧ t.sp = s.sp - 2 ∧ (∀ k, t.reg k = if k = .a then m else s.reg k)
    ∧ (∀ x, memRead t x = if x = s.sp - 1 then s.pc else if x = s.sp - 2 then s.reg .a else memRead s x)
    ∧ t.trace = s.trace ++ eventsAt s.hooks (s.sp - 1) ++ eventsAt s.hooks (s.sp - 2)
    ∧ t.ex = s.ex ∧ t.ia = s.ia ∧ t.skip = s.skip ∧ t.discard = s.discard ∧ t.hooks = s.hooks ∧ t.cfg = s.cfg
    ∧ t.dispatched = s.dispatched ∧ t.fresh = s.fresh

/-- What happens at a boundary (R248, R250; the policies are D16): no dispatch while the queue is empty, a skip is
pending or one was taken here; otherwise by `irqMode`, where under `ANY_BOUNDARY` either may happen, the choice
being a free value (log 6). A dispatch with `ia` 0 drops the head and changes nothing else. `dispatched` and
`fresh` are the model's own. -/
def Obligations.BoundaryPolicy : Prop :=
  ∀ (s : State),
    ((s.queue = [] ∨ s.skip = true ∨ s.dispatched = true ∨ s.cfg.irqMode = .never) → boundary s = .proceeds s)
    ∧ (∀ m rest, s.queue = m :: rest → s.skip = false → s.dispatched = false →
        (s.cfg.irqMode = .eager → step s = .next { dispatch s with dispatched := true })
        ∧ (s.cfg.irqMode = .anyBoundary →
            step s = .next { dispatch s with dispatched := true, fresh := s.fresh + 1 }
            ∨ boundary s = .proceeds { s with fresh := s.fresh + 1 })
        ∧ (s.ia = 0 → dispatch s = { s with queue := rest }))

/-- At most one dispatch stands between two steps (R250): after one, the same boundary goes on to the step. -/
def Obligations.OneDispatchPerBoundary : Prop :=
  ∀ s t : State, boundary s = .dispatched t → boundary t = .proceeds t

/-- A handler that executes `SET A, POP` and `SET PC, POP` undoes the dispatch (R252; D19): every register, `pc`,
`sp`, `ex`, `ia` and `skip` are as before it. -/
def Obligations.InterruptReturn : Prop :=
  ∀ (s : State) (m : Word) (rest : List Word), s.queue = m :: rest → s.ia ≠ 0 → s.skip = false →
    ∃ t u, exec (.set (.reg .a) .pop) (dispatch s) = .next t ∧ exec (.set .pc .pop) t = .next u
      ∧ u.pc = s.pc ∧ u.sp = s.sp ∧ (∀ k, u.reg k = s.reg k) ∧ u.ex = s.ex ∧ u.ia = s.ia ∧ u.skip = false

/-! Control flow. -/

/-- `SET PC, POP` returns from `JSR` (R211, R218): `pc` is the address after the call, `sp` as before the push. -/
def Obligations.CallThenReturn : Prop :=
  ∀ (a : Operand) (s : State), s.skip = false →
    ∃ t u, exec (.jsr a) s = .next t ∧ exec (.set .pc .pop) t = .next u
      ∧ u.pc = s.pc + BitVec.ofNat 16 a.nextWords ∧ u.sp = (afterOperand a s).sp ∧ (∀ k, u.reg k = s.reg k)

/-- `SUB PC, 1` (word 0x85C3) under the default literals and with nothing queued comes back to its own address,
writing only `ex`, and the state it leaves is a fixed point (R278; D25). -/
def Obligations.StopIdiomIsAFixedPoint : Prop :=
  ∀ s : State, memRead s s.pc = 0x85C3 → s.skip = false → s.queue = [] → s.cfg.literal = .minus20 →
    ∃ t, step s = .next t
      ∧ t = { s with ex := if s.pc = 0xFFFF then 0xFFFF else 0, dispatched := false }
      ∧ step t = .next t

/-- No run of `step` without a move of the host, from a machine that has so reached the stop idiom, meets a refused
step (R278). That `Safe` speaks of such runs only is the model's choice (log 10): a `raise_interrupt` of the host with
`ia` nonzero may lead away from the idiom, and R278 itself speaks of it absent interrupt dispatch. -/
def Obligations.StopIdiomIsSafe : Prop :=
  ∀ s : State, memRead s s.pc = 0x85C3 → s.skip = false → s.queue = [] → s.cfg.literal = .minus20 → Safe s

/-! The step. -/

/-- A step runs the decoded instruction (R111): where the boundary goes on in `u` and the word at `pc` decodes to
`i`, the step is `exec i` with `pc` past the instruction word; `dispatched` is the model's own (log 7). -/
def Obligations.StepRunsDecodedInstr : Prop :=
  ∀ (s u : State) (i : Instr), boundary s = .proceeds u → decode (memRead u u.pc) = .instr i →
    step s = exec i { u with pc := u.pc + 1, dispatched := false }

/-- A step has three outcomes only (R89, R135, R244; the refusal is D6): a dispatch, the instruction at `pc`
executed to a next state, or, where the word at `pc` is unassigned, in either mode, its refusal, with `pc` past the
word and nothing else changed (`dispatched` is the model's own). -/
def Obligations.StepOutcomes : Prop :=
  ∀ s : State,
    (∃ t, boundary s = .dispatched t ∧ step s = .next t)
    ∨ (∃ u i t, boundary s = .proceeds u ∧ decode (memRead u u.pc) = .instr i ∧ step s = .next t)
    ∨ (∃ u, boundary s = .proceeds u ∧ decode (memRead u u.pc) = .unassigned (memRead u u.pc)
        ∧ step s = .refused (.undefinedInstruction (memRead u u.pc) { u with pc := u.pc + 1, dispatched := false }))

/-- An instruction placed where the machine fetches is what the next step runs (the model's own way of loading a
word, log 11), with nothing else changed that the spec names but the cells of its words. -/
def Obligations.PlacedInstrRuns : Prop :=
  ∀ (s : State) (w : Word) (i : Instr), decode w = .instr i →
    let p := s.withFetchWord 16 w.toNat
    step p = exec i { p with pc := s.pc + 1, dispatched := false }
    ∧ p = { s with mem := p.mem, dispatched := true }
    ∧ ∀ x, x ≠ s.pc → x ≠ s.pc + 1 → x ≠ s.pc + 2 → memRead p x = memRead s x

/-! Reset, invariant, host. -/

/-- The state after reset (R270; that the special registers are among "all registers" is D34, the empty registry
and queue D22): every general and special register 0, every memory cell 0, no skip pending, nothing registered or
queued; and the first step fetches the word 0 at address 0 (R271), which is unassigned. -/
def Obligations.ResetValues : Prop :=
  (∀ k, State.reset.reg k = 0) ∧ State.reset.pc = 0 ∧ State.reset.sp = 0 ∧ State.reset.ex = 0
  ∧ State.reset.ia = 0 ∧ State.reset.skip = false ∧ (∀ x, memRead State.reset x = 0)
  ∧ State.reset.hooks = [] ∧ State.reset.queue = []
  ∧ step State.reset = .refused (.undefinedInstruction 0 { State.reset with pc := 1 })

/-- The state after reset has the invariant of the model. -/
def Obligations.ResetHasInv : Prop := State.reset.Inv

/-- Every transition keeps the invariant: the memory's canonical form, no dispatch before a pending skip (R248),
and a trace that tells only of covering hooks (R54). -/
def Obligations.StepKeepsInv : Prop := ∀ s t : State, s.Inv → step s = .next t → t.Inv

/-- What the operations of the host and the environment do, and nothing else (R260): registering a hook appends it
to the registry (R59), raising an interrupt appends its message unless `ia` is 0 (R247, D17), construct gives the
state after reset (R270; with its default configuration and the model's own fields begun anew, the model's choice of
log 16), load stores the image, and the environment's dispatch is `Dispatch()` where a message waits, no skip is
pending, none was taken at this boundary and `irqMode` is not `NEVER` (R248, R250, D16), and does nothing elsewhere
(the model's choice of log 17). `HostStepRunsOneInstruction` says the same of the step. -/
def Obligations.HostOperations : Prop :=
  ∀ s : State,
    (∀ lo hi observer, hostApply s (.registerHook lo hi observer)
      = .next { s with hooks := s.hooks ++ [{ lo := lo, hi := hi, observer := observer }] })
    ∧ (∀ m, hostApply s (.raiseInterrupt m)
        = .next { s with queue := if s.ia = 0 then s.queue else s.queue ++ [m] })
    ∧ hostApply s .construct = .next State.reset
    ∧ (∀ start image, hostApply s (.load start image) = .next (load s start image))
    ∧ hostApply s .dispatch = .next
        (if s.queue ≠ [] ∧ s.skip = false ∧ s.dispatched = false ∧ s.cfg.irqMode ≠ .never
         then { dispatch s with dispatched := true } else s)

/-- The host's `step()` runs exactly one instruction (R110, R111, R260), with no dispatch but the one that `EAGER`
puts before it (R248, D16; that the same call takes it is the model's choice of log 17): from the state `u` it begins
in, it is `exec` of the instruction at `pc`, or the refusal of an unassigned word (R89, D6). -/
def Obligations.HostStepRunsOneInstruction : Prop :=
  ∀ s : State,
    let u := if s.cfg.irqMode = .eager ∧ s.queue ≠ [] ∧ s.skip = false ∧ s.dispatched = false
      then { dispatch s with dispatched := true } else s
    (∀ i, decode (memRead u u.pc) = .instr i →
      hostApply s .step = exec i { u with pc := u.pc + 1, dispatched := false }
      ∧ ∃ t, hostApply s .step = .next t)
    ∧ (∀ w, decode (memRead u u.pc) = .unassigned w →
      hostApply s .step = .refused (.undefinedInstruction w { u with pc := u.pc + 1, dispatched := false }))

/-- Every answer of the machine's own `step` is that of one move of R260, the environment's dispatch or the host's
step, from the same state but for the model's own `fresh`, which the choice of `ANY_BOUNDARY` uses up (log 6, log 10);
in particular a refusal of `step` is one of the host's step. -/
def Obligations.StepIsAMoveOfHostOrEnvironment : Prop :=
  ∀ s : State, ∃ n, (n = s.fresh ∨ n = s.fresh + 1)
    ∧ (step s = hostApply { s with fresh := n } .dispatch ∨ step s = hostApply { s with fresh := n } .step)

/-- Every operation of the host and the environment keeps the invariant, too (R260). -/
def Obligations.HostKeepsInv : Prop :=
  ∀ (s t : State) (op : HostOp), s.Inv → hostApply s op = .next t → t.Inv

/-- Loading an image (R67; that no hook fires is D21) puts its words at consecutive addresses from the start on,
wrapping, fires no hook and changes nothing but memory. -/
def Obligations.LoadStoresTheImage : Prop :=
  ∀ (s : State) (start : Word) (image : List Word), image.length ≤ 65536 →
    let t := load s start image
    (∀ k (h : k < image.length), memRead t (start + BitVec.ofNat 16 k) = image[k])
    ∧ (∀ x, (∀ k, k < image.length → x ≠ start + BitVec.ofNat 16 k) → memRead t x = memRead s x)
    ∧ t = { s with mem := t.mem }
end

