-- ==== Sys2Proof/Laws/Mem.lean ====
section
/-! SUPPORT. The laws of the word store: read after write, and every memory operation keeps the canonical form. -/

namespace Sys2Proof.Machine

theorem Memory.readNat_erase_same (m : Memory) (k : Nat) : (m.erase k).readNat k = memDefault := by
  induction m with
  | nil => rfl
  | cons c rest ih =>
    by_cases h : c.1 = k
    · simpa [Memory.erase, h] using ih
    · simpa [Memory.erase, Memory.readNat, h] using ih

theorem Memory.readNat_erase_other (m : Memory) {k j : Nat} (hj : j ≠ k) :
    (m.erase k).readNat j = m.readNat j := by
  induction m with
  | nil => rfl
  | cons c rest ih =>
    by_cases h : c.1 = k
    · have hc : c.1 ≠ j := fun e => hj (e ▸ h)
      simpa [Memory.erase, Memory.readNat, h, Ne.symm hj] using ih
    · by_cases hc : c.1 = j
      · simp [Memory.erase, Memory.readNat, hc, hj]
      · simpa [Memory.erase, Memory.readNat, h, hc] using ih

theorem Memory.readNat_insertCell_other (m : Memory) {k j : Nat} (v : Word) (hj : j ≠ k) :
    (m.insertCell k v).readNat j = m.readNat j := by
  induction m with
  | nil => simp [Memory.insertCell, Memory.readNat, Ne.symm hj]
  | cons c rest ih =>
    unfold Memory.insertCell
    split
    · simp [Memory.readNat, Ne.symm hj]
    · simp only [Memory.readNat, ih]

theorem Memory.readNat_insertCell_same (m : Memory) (k : Nat) (v : Word) (hk : ∀ c ∈ m, c.1 ≠ k) :
    (m.insertCell k v).readNat k = v := by
  induction m with
  | nil => simp [Memory.insertCell, Memory.readNat]
  | cons c rest ih =>
    unfold Memory.insertCell
    split
    · simp [Memory.readNat]
    · have hc : c.1 ≠ k := hk c (by simp)
      simpa [Memory.readNat, hc] using ih fun d hd => hk d (by simp [hd])

theorem Memory.erase_lacks (m : Memory) (k : Nat) : ∀ c ∈ m.erase k, c.1 ≠ k := by
  intro c hc
  simpa using (List.mem_filter.mp hc).2

/-- A read after a write to any address: the written value there, the old value elsewhere (20_memory.md R64). -/
@[simp] theorem Memory.read_write (m : Memory) (addr v x : Word) :
    (m.write addr v).read x = if x = addr then v else m.read x := by
  unfold Memory.write Memory.read
  by_cases hx : x = addr
  · subst hx
    by_cases hv : v = memDefault
    · simp [hv, Memory.readNat_erase_same]
    · simp [hv, Memory.readNat_insertCell_same _ _ _ (Memory.erase_lacks m x.toNat)]
  · have hn : x.toNat ≠ addr.toNat := fun e => hx (BitVec.eq_of_toNat_eq e)
    by_cases hv : v = memDefault
    · simp [hv, hx, Memory.readNat_erase_other m hn]
    · simp [hv, hx, Memory.readNat_insertCell_other _ v hn, Memory.readNat_erase_other m hn]

theorem Memory.mem_insertCell (m : Memory) (k : Nat) (v : Word) (c : Nat × Word) :
    c ∈ m.insertCell k v ↔ c = (k, v) ∨ c ∈ m := by
  induction m with
  | nil => simp [Memory.insertCell]
  | cons d rest ih =>
    unfold Memory.insertCell
    split
    · simp
    · simp only [List.mem_cons, ih]
      tauto

theorem Memory.wf_erase {m : Memory} (h : m.wf) (k : Nat) : (m.erase k).wf :=
  ⟨h.1.filter _, fun c hc => h.2 c (List.mem_filter.mp hc).1⟩

theorem Memory.pairwise_insertCell {m : Memory} (h : m.Pairwise fun c d => c.1 < d.1) {k : Nat} (v : Word)
    (hk : ∀ c ∈ m, c.1 ≠ k) : (m.insertCell k v).Pairwise fun c d => c.1 < d.1 := by
  induction m with
  | nil => simp [Memory.insertCell]
  | cons d rest ih =>
    have hd := List.pairwise_cons.mp h
    have hdk : d.1 ≠ k := hk d (by simp)
    unfold Memory.insertCell
    split
    case isTrue hlt =>
      refine List.pairwise_cons.mpr ⟨fun c hc => ?_, h⟩
      rcases List.mem_cons.mp hc with rfl | hc
      · exact hlt
      · exact lt_trans hlt (hd.1 c hc)
    case isFalse hge =>
      refine List.pairwise_cons.mpr ⟨fun c hc => ?_, ih hd.2 fun c hc => hk c (by simp [hc])⟩
      rcases (Memory.mem_insertCell rest k v c).mp hc with rfl | hc
      · show d.1 < k
        omega
      · exact hd.1 c hc

/-- A write keeps the canonical form. -/
theorem Memory.wf_write {m : Memory} (h : m.wf) (addr v : Word) : (m.write addr v).wf := by
  have he := Memory.wf_erase h addr.toNat
  unfold Memory.write
  split
  case isTrue => exact he
  case isFalse hv =>
    refine ⟨Memory.pairwise_insertCell he.1 v (Memory.erase_lacks m _), fun c hc => ?_⟩
    rcases (Memory.mem_insertCell _ _ _ _).mp hc with rfl | hc
    · exact ⟨addr.isLt, hv⟩
    · exact he.2 c hc

/-- The memory after reset has the canonical form. -/
theorem reset_mem_wf : State.reset.mem.wf := by decide

/-- What storing an instruction's words does: it keeps the canonical form. -/
theorem storeInstr_mem_wf {s : State} (h : s.mem.wf) (nbits w : Nat) : (storeInstr s nbits w).mem.wf :=
  Memory.wf_write (Memory.wf_write (Memory.wf_write h _ _) _ _) _ _

end Sys2Proof.Machine
end

