-- ==== Sys2Proof/Laws/State.lean ====
section
/-! SUPPORT. One lemma per field of State per update, each by rfl, so that no proof unfolds a record update. -/

namespace Sys2Proof.Machine

/-- Reading a register file after writing one register. -/
@[simp] theorem Regs.get_put (g : Regs) (r k : Reg) (v : Word) :
    (g.put r v).get k = if k = r then v else g.get k := by
  cases r <;> cases k <;> rfl

@[simp] theorem State.reg_setReg (s : State) (r k : Reg) (v : Word) :
    (s.setReg r v).reg k = if k = r then v else s.reg k := Regs.get_put s.regs r k v

@[simp] theorem State.pc_setReg (s : State) (r : Reg) (v : Word) : (s.setReg r v).pc = s.pc := rfl
@[simp] theorem State.sp_setReg (s : State) (r : Reg) (v : Word) : (s.setReg r v).sp = s.sp := rfl
@[simp] theorem State.ex_setReg (s : State) (r : Reg) (v : Word) : (s.setReg r v).ex = s.ex := rfl
@[simp] theorem State.ia_setReg (s : State) (r : Reg) (v : Word) : (s.setReg r v).ia = s.ia := rfl
@[simp] theorem State.mem_setReg (s : State) (r : Reg) (v : Word) : (s.setReg r v).mem = s.mem := rfl
@[simp] theorem State.skip_setReg (s : State) (r : Reg) (v : Word) : (s.setReg r v).skip = s.skip := rfl
@[simp] theorem State.discard_setReg (s : State) (r : Reg) (v : Word) : (s.setReg r v).discard = s.discard := rfl
@[simp] theorem State.hooks_setReg (s : State) (r : Reg) (v : Word) : (s.setReg r v).hooks = s.hooks := rfl
@[simp] theorem State.queue_setReg (s : State) (r : Reg) (v : Word) : (s.setReg r v).queue = s.queue := rfl
@[simp] theorem State.trace_setReg (s : State) (r : Reg) (v : Word) : (s.setReg r v).trace = s.trace := rfl
@[simp] theorem State.cfg_setReg (s : State) (r : Reg) (v : Word) : (s.setReg r v).cfg = s.cfg := rfl
@[simp] theorem State.dispatched_setReg (s : State) (r : Reg) (v : Word) : (s.setReg r v).dispatched = s.dispatched := rfl
@[simp] theorem State.fresh_setReg (s : State) (r : Reg) (v : Word) : (s.setReg r v).fresh = s.fresh := rfl

@[simp] theorem State.regs_setPc (s : State) (v : Word) : (s.setPc v).regs = s.regs := rfl
@[simp] theorem State.pc_setPc (s : State) (v : Word) : (s.setPc v).pc = v := rfl
@[simp] theorem State.sp_setPc (s : State) (v : Word) : (s.setPc v).sp = s.sp := rfl
@[simp] theorem State.ex_setPc (s : State) (v : Word) : (s.setPc v).ex = s.ex := rfl
@[simp] theorem State.ia_setPc (s : State) (v : Word) : (s.setPc v).ia = s.ia := rfl
@[simp] theorem State.mem_setPc (s : State) (v : Word) : (s.setPc v).mem = s.mem := rfl
@[simp] theorem State.skip_setPc (s : State) (v : Word) : (s.setPc v).skip = s.skip := rfl
@[simp] theorem State.discard_setPc (s : State) (v : Word) : (s.setPc v).discard = s.discard := rfl
@[simp] theorem State.hooks_setPc (s : State) (v : Word) : (s.setPc v).hooks = s.hooks := rfl
@[simp] theorem State.queue_setPc (s : State) (v : Word) : (s.setPc v).queue = s.queue := rfl
@[simp] theorem State.trace_setPc (s : State) (v : Word) : (s.setPc v).trace = s.trace := rfl
@[simp] theorem State.cfg_setPc (s : State) (v : Word) : (s.setPc v).cfg = s.cfg := rfl
@[simp] theorem State.dispatched_setPc (s : State) (v : Word) : (s.setPc v).dispatched = s.dispatched := rfl
@[simp] theorem State.fresh_setPc (s : State) (v : Word) : (s.setPc v).fresh = s.fresh := rfl
@[simp] theorem State.reg_setPc (s : State) (v : Word) (r : Reg) : (s.setPc v).reg r = s.reg r := rfl

@[simp] theorem State.regs_setSp (s : State) (v : Word) : (s.setSp v).regs = s.regs := rfl
@[simp] theorem State.pc_setSp (s : State) (v : Word) : (s.setSp v).pc = s.pc := rfl
@[simp] theorem State.sp_setSp (s : State) (v : Word) : (s.setSp v).sp = v := rfl
@[simp] theorem State.ex_setSp (s : State) (v : Word) : (s.setSp v).ex = s.ex := rfl
@[simp] theorem State.ia_setSp (s : State) (v : Word) : (s.setSp v).ia = s.ia := rfl
@[simp] theorem State.mem_setSp (s : State) (v : Word) : (s.setSp v).mem = s.mem := rfl
@[simp] theorem State.skip_setSp (s : State) (v : Word) : (s.setSp v).skip = s.skip := rfl
@[simp] theorem State.discard_setSp (s : State) (v : Word) : (s.setSp v).discard = s.discard := rfl
@[simp] theorem State.hooks_setSp (s : State) (v : Word) : (s.setSp v).hooks = s.hooks := rfl
@[simp] theorem State.queue_setSp (s : State) (v : Word) : (s.setSp v).queue = s.queue := rfl
@[simp] theorem State.trace_setSp (s : State) (v : Word) : (s.setSp v).trace = s.trace := rfl
@[simp] theorem State.cfg_setSp (s : State) (v : Word) : (s.setSp v).cfg = s.cfg := rfl
@[simp] theorem State.dispatched_setSp (s : State) (v : Word) : (s.setSp v).dispatched = s.dispatched := rfl
@[simp] theorem State.fresh_setSp (s : State) (v : Word) : (s.setSp v).fresh = s.fresh := rfl
@[simp] theorem State.reg_setSp (s : State) (v : Word) (r : Reg) : (s.setSp v).reg r = s.reg r := rfl

@[simp] theorem State.regs_setEx (s : State) (v : Word) : (s.setEx v).regs = s.regs := rfl
@[simp] theorem State.pc_setEx (s : State) (v : Word) : (s.setEx v).pc = s.pc := rfl
@[simp] theorem State.sp_setEx (s : State) (v : Word) : (s.setEx v).sp = s.sp := rfl
@[simp] theorem State.ex_setEx (s : State) (v : Word) : (s.setEx v).ex = v := rfl
@[simp] theorem State.ia_setEx (s : State) (v : Word) : (s.setEx v).ia = s.ia := rfl
@[simp] theorem State.mem_setEx (s : State) (v : Word) : (s.setEx v).mem = s.mem := rfl
@[simp] theorem State.skip_setEx (s : State) (v : Word) : (s.setEx v).skip = s.skip := rfl
@[simp] theorem State.discard_setEx (s : State) (v : Word) : (s.setEx v).discard = s.discard := rfl
@[simp] theorem State.hooks_setEx (s : State) (v : Word) : (s.setEx v).hooks = s.hooks := rfl
@[simp] theorem State.queue_setEx (s : State) (v : Word) : (s.setEx v).queue = s.queue := rfl
@[simp] theorem State.trace_setEx (s : State) (v : Word) : (s.setEx v).trace = s.trace := rfl
@[simp] theorem State.cfg_setEx (s : State) (v : Word) : (s.setEx v).cfg = s.cfg := rfl
@[simp] theorem State.dispatched_setEx (s : State) (v : Word) : (s.setEx v).dispatched = s.dispatched := rfl
@[simp] theorem State.fresh_setEx (s : State) (v : Word) : (s.setEx v).fresh = s.fresh := rfl
@[simp] theorem State.reg_setEx (s : State) (v : Word) (r : Reg) : (s.setEx v).reg r = s.reg r := rfl

@[simp] theorem State.regs_setIa (s : State) (v : Word) : (s.setIa v).regs = s.regs := rfl
@[simp] theorem State.pc_setIa (s : State) (v : Word) : (s.setIa v).pc = s.pc := rfl
@[simp] theorem State.sp_setIa (s : State) (v : Word) : (s.setIa v).sp = s.sp := rfl
@[simp] theorem State.ex_setIa (s : State) (v : Word) : (s.setIa v).ex = s.ex := rfl
@[simp] theorem State.ia_setIa (s : State) (v : Word) : (s.setIa v).ia = v := rfl
@[simp] theorem State.mem_setIa (s : State) (v : Word) : (s.setIa v).mem = s.mem := rfl
@[simp] theorem State.skip_setIa (s : State) (v : Word) : (s.setIa v).skip = s.skip := rfl
@[simp] theorem State.discard_setIa (s : State) (v : Word) : (s.setIa v).discard = s.discard := rfl
@[simp] theorem State.hooks_setIa (s : State) (v : Word) : (s.setIa v).hooks = s.hooks := rfl
@[simp] theorem State.queue_setIa (s : State) (v : Word) : (s.setIa v).queue = s.queue := rfl
@[simp] theorem State.trace_setIa (s : State) (v : Word) : (s.setIa v).trace = s.trace := rfl
@[simp] theorem State.cfg_setIa (s : State) (v : Word) : (s.setIa v).cfg = s.cfg := rfl
@[simp] theorem State.dispatched_setIa (s : State) (v : Word) : (s.setIa v).dispatched = s.dispatched := rfl
@[simp] theorem State.fresh_setIa (s : State) (v : Word) : (s.setIa v).fresh = s.fresh := rfl
@[simp] theorem State.reg_setIa (s : State) (v : Word) (r : Reg) : (s.setIa v).reg r = s.reg r := rfl

@[simp] theorem State.regs_setMem (s : State) (v : Memory) : (s.setMem v).regs = s.regs := rfl
@[simp] theorem State.pc_setMem (s : State) (v : Memory) : (s.setMem v).pc = s.pc := rfl
@[simp] theorem State.sp_setMem (s : State) (v : Memory) : (s.setMem v).sp = s.sp := rfl
@[simp] theorem State.ex_setMem (s : State) (v : Memory) : (s.setMem v).ex = s.ex := rfl
@[simp] theorem State.ia_setMem (s : State) (v : Memory) : (s.setMem v).ia = s.ia := rfl
@[simp] theorem State.mem_setMem (s : State) (v : Memory) : (s.setMem v).mem = v := rfl
@[simp] theorem State.skip_setMem (s : State) (v : Memory) : (s.setMem v).skip = s.skip := rfl
@[simp] theorem State.discard_setMem (s : State) (v : Memory) : (s.setMem v).discard = s.discard := rfl
@[simp] theorem State.hooks_setMem (s : State) (v : Memory) : (s.setMem v).hooks = s.hooks := rfl
@[simp] theorem State.queue_setMem (s : State) (v : Memory) : (s.setMem v).queue = s.queue := rfl
@[simp] theorem State.trace_setMem (s : State) (v : Memory) : (s.setMem v).trace = s.trace := rfl
@[simp] theorem State.cfg_setMem (s : State) (v : Memory) : (s.setMem v).cfg = s.cfg := rfl
@[simp] theorem State.dispatched_setMem (s : State) (v : Memory) : (s.setMem v).dispatched = s.dispatched := rfl
@[simp] theorem State.fresh_setMem (s : State) (v : Memory) : (s.setMem v).fresh = s.fresh := rfl
@[simp] theorem State.reg_setMem (s : State) (v : Memory) (r : Reg) : (s.setMem v).reg r = s.reg r := rfl

@[simp] theorem State.regs_setSkip (s : State) (v : Bool) : (s.setSkip v).regs = s.regs := rfl
@[simp] theorem State.pc_setSkip (s : State) (v : Bool) : (s.setSkip v).pc = s.pc := rfl
@[simp] theorem State.sp_setSkip (s : State) (v : Bool) : (s.setSkip v).sp = s.sp := rfl
@[simp] theorem State.ex_setSkip (s : State) (v : Bool) : (s.setSkip v).ex = s.ex := rfl
@[simp] theorem State.ia_setSkip (s : State) (v : Bool) : (s.setSkip v).ia = s.ia := rfl
@[simp] theorem State.mem_setSkip (s : State) (v : Bool) : (s.setSkip v).mem = s.mem := rfl
@[simp] theorem State.skip_setSkip (s : State) (v : Bool) : (s.setSkip v).skip = v := rfl
@[simp] theorem State.discard_setSkip (s : State) (v : Bool) : (s.setSkip v).discard = s.discard := rfl
@[simp] theorem State.hooks_setSkip (s : State) (v : Bool) : (s.setSkip v).hooks = s.hooks := rfl
@[simp] theorem State.queue_setSkip (s : State) (v : Bool) : (s.setSkip v).queue = s.queue := rfl
@[simp] theorem State.trace_setSkip (s : State) (v : Bool) : (s.setSkip v).trace = s.trace := rfl
@[simp] theorem State.cfg_setSkip (s : State) (v : Bool) : (s.setSkip v).cfg = s.cfg := rfl
@[simp] theorem State.dispatched_setSkip (s : State) (v : Bool) : (s.setSkip v).dispatched = s.dispatched := rfl
@[simp] theorem State.fresh_setSkip (s : State) (v : Bool) : (s.setSkip v).fresh = s.fresh := rfl
@[simp] theorem State.reg_setSkip (s : State) (v : Bool) (r : Reg) : (s.setSkip v).reg r = s.reg r := rfl

@[simp] theorem State.regs_setDiscard (s : State) (v : Word) : (s.setDiscard v).regs = s.regs := rfl
@[simp] theorem State.pc_setDiscard (s : State) (v : Word) : (s.setDiscard v).pc = s.pc := rfl
@[simp] theorem State.sp_setDiscard (s : State) (v : Word) : (s.setDiscard v).sp = s.sp := rfl
@[simp] theorem State.ex_setDiscard (s : State) (v : Word) : (s.setDiscard v).ex = s.ex := rfl
@[simp] theorem State.ia_setDiscard (s : State) (v : Word) : (s.setDiscard v).ia = s.ia := rfl
@[simp] theorem State.mem_setDiscard (s : State) (v : Word) : (s.setDiscard v).mem = s.mem := rfl
@[simp] theorem State.skip_setDiscard (s : State) (v : Word) : (s.setDiscard v).skip = s.skip := rfl
@[simp] theorem State.discard_setDiscard (s : State) (v : Word) : (s.setDiscard v).discard = v := rfl
@[simp] theorem State.hooks_setDiscard (s : State) (v : Word) : (s.setDiscard v).hooks = s.hooks := rfl
@[simp] theorem State.queue_setDiscard (s : State) (v : Word) : (s.setDiscard v).queue = s.queue := rfl
@[simp] theorem State.trace_setDiscard (s : State) (v : Word) : (s.setDiscard v).trace = s.trace := rfl
@[simp] theorem State.cfg_setDiscard (s : State) (v : Word) : (s.setDiscard v).cfg = s.cfg := rfl
@[simp] theorem State.dispatched_setDiscard (s : State) (v : Word) : (s.setDiscard v).dispatched = s.dispatched := rfl
@[simp] theorem State.fresh_setDiscard (s : State) (v : Word) : (s.setDiscard v).fresh = s.fresh := rfl
@[simp] theorem State.reg_setDiscard (s : State) (v : Word) (r : Reg) : (s.setDiscard v).reg r = s.reg r := rfl

@[simp] theorem State.regs_setHooks (s : State) (v : List Hook) : (s.setHooks v).regs = s.regs := rfl
@[simp] theorem State.pc_setHooks (s : State) (v : List Hook) : (s.setHooks v).pc = s.pc := rfl
@[simp] theorem State.sp_setHooks (s : State) (v : List Hook) : (s.setHooks v).sp = s.sp := rfl
@[simp] theorem State.ex_setHooks (s : State) (v : List Hook) : (s.setHooks v).ex = s.ex := rfl
@[simp] theorem State.ia_setHooks (s : State) (v : List Hook) : (s.setHooks v).ia = s.ia := rfl
@[simp] theorem State.mem_setHooks (s : State) (v : List Hook) : (s.setHooks v).mem = s.mem := rfl
@[simp] theorem State.skip_setHooks (s : State) (v : List Hook) : (s.setHooks v).skip = s.skip := rfl
@[simp] theorem State.discard_setHooks (s : State) (v : List Hook) : (s.setHooks v).discard = s.discard := rfl
@[simp] theorem State.hooks_setHooks (s : State) (v : List Hook) : (s.setHooks v).hooks = v := rfl
@[simp] theorem State.queue_setHooks (s : State) (v : List Hook) : (s.setHooks v).queue = s.queue := rfl
@[simp] theorem State.trace_setHooks (s : State) (v : List Hook) : (s.setHooks v).trace = s.trace := rfl
@[simp] theorem State.cfg_setHooks (s : State) (v : List Hook) : (s.setHooks v).cfg = s.cfg := rfl
@[simp] theorem State.dispatched_setHooks (s : State) (v : List Hook) : (s.setHooks v).dispatched = s.dispatched := rfl
@[simp] theorem State.fresh_setHooks (s : State) (v : List Hook) : (s.setHooks v).fresh = s.fresh := rfl
@[simp] theorem State.reg_setHooks (s : State) (v : List Hook) (r : Reg) : (s.setHooks v).reg r = s.reg r := rfl

@[simp] theorem State.regs_setQueue (s : State) (v : List Word) : (s.setQueue v).regs = s.regs := rfl
@[simp] theorem State.pc_setQueue (s : State) (v : List Word) : (s.setQueue v).pc = s.pc := rfl
@[simp] theorem State.sp_setQueue (s : State) (v : List Word) : (s.setQueue v).sp = s.sp := rfl
@[simp] theorem State.ex_setQueue (s : State) (v : List Word) : (s.setQueue v).ex = s.ex := rfl
@[simp] theorem State.ia_setQueue (s : State) (v : List Word) : (s.setQueue v).ia = s.ia := rfl
@[simp] theorem State.mem_setQueue (s : State) (v : List Word) : (s.setQueue v).mem = s.mem := rfl
@[simp] theorem State.skip_setQueue (s : State) (v : List Word) : (s.setQueue v).skip = s.skip := rfl
@[simp] theorem State.discard_setQueue (s : State) (v : List Word) : (s.setQueue v).discard = s.discard := rfl
@[simp] theorem State.hooks_setQueue (s : State) (v : List Word) : (s.setQueue v).hooks = s.hooks := rfl
@[simp] theorem State.queue_setQueue (s : State) (v : List Word) : (s.setQueue v).queue = v := rfl
@[simp] theorem State.trace_setQueue (s : State) (v : List Word) : (s.setQueue v).trace = s.trace := rfl
@[simp] theorem State.cfg_setQueue (s : State) (v : List Word) : (s.setQueue v).cfg = s.cfg := rfl
@[simp] theorem State.dispatched_setQueue (s : State) (v : List Word) : (s.setQueue v).dispatched = s.dispatched := rfl
@[simp] theorem State.fresh_setQueue (s : State) (v : List Word) : (s.setQueue v).fresh = s.fresh := rfl
@[simp] theorem State.reg_setQueue (s : State) (v : List Word) (r : Reg) : (s.setQueue v).reg r = s.reg r := rfl

@[simp] theorem State.regs_setTrace (s : State) (v : List HookEvent) : (s.setTrace v).regs = s.regs := rfl
@[simp] theorem State.pc_setTrace (s : State) (v : List HookEvent) : (s.setTrace v).pc = s.pc := rfl
@[simp] theorem State.sp_setTrace (s : State) (v : List HookEvent) : (s.setTrace v).sp = s.sp := rfl
@[simp] theorem State.ex_setTrace (s : State) (v : List HookEvent) : (s.setTrace v).ex = s.ex := rfl
@[simp] theorem State.ia_setTrace (s : State) (v : List HookEvent) : (s.setTrace v).ia = s.ia := rfl
@[simp] theorem State.mem_setTrace (s : State) (v : List HookEvent) : (s.setTrace v).mem = s.mem := rfl
@[simp] theorem State.skip_setTrace (s : State) (v : List HookEvent) : (s.setTrace v).skip = s.skip := rfl
@[simp] theorem State.discard_setTrace (s : State) (v : List HookEvent) : (s.setTrace v).discard = s.discard := rfl
@[simp] theorem State.hooks_setTrace (s : State) (v : List HookEvent) : (s.setTrace v).hooks = s.hooks := rfl
@[simp] theorem State.queue_setTrace (s : State) (v : List HookEvent) : (s.setTrace v).queue = s.queue := rfl
@[simp] theorem State.trace_setTrace (s : State) (v : List HookEvent) : (s.setTrace v).trace = v := rfl
@[simp] theorem State.cfg_setTrace (s : State) (v : List HookEvent) : (s.setTrace v).cfg = s.cfg := rfl
@[simp] theorem State.dispatched_setTrace (s : State) (v : List HookEvent) : (s.setTrace v).dispatched = s.dispatched := rfl
@[simp] theorem State.fresh_setTrace (s : State) (v : List HookEvent) : (s.setTrace v).fresh = s.fresh := rfl
@[simp] theorem State.reg_setTrace (s : State) (v : List HookEvent) (r : Reg) : (s.setTrace v).reg r = s.reg r := rfl

@[simp] theorem State.regs_setDispatched (s : State) (v : Bool) : (s.setDispatched v).regs = s.regs := rfl
@[simp] theorem State.pc_setDispatched (s : State) (v : Bool) : (s.setDispatched v).pc = s.pc := rfl
@[simp] theorem State.sp_setDispatched (s : State) (v : Bool) : (s.setDispatched v).sp = s.sp := rfl
@[simp] theorem State.ex_setDispatched (s : State) (v : Bool) : (s.setDispatched v).ex = s.ex := rfl
@[simp] theorem State.ia_setDispatched (s : State) (v : Bool) : (s.setDispatched v).ia = s.ia := rfl
@[simp] theorem State.mem_setDispatched (s : State) (v : Bool) : (s.setDispatched v).mem = s.mem := rfl
@[simp] theorem State.skip_setDispatched (s : State) (v : Bool) : (s.setDispatched v).skip = s.skip := rfl
@[simp] theorem State.discard_setDispatched (s : State) (v : Bool) : (s.setDispatched v).discard = s.discard := rfl
@[simp] theorem State.hooks_setDispatched (s : State) (v : Bool) : (s.setDispatched v).hooks = s.hooks := rfl
@[simp] theorem State.queue_setDispatched (s : State) (v : Bool) : (s.setDispatched v).queue = s.queue := rfl
@[simp] theorem State.trace_setDispatched (s : State) (v : Bool) : (s.setDispatched v).trace = s.trace := rfl
@[simp] theorem State.cfg_setDispatched (s : State) (v : Bool) : (s.setDispatched v).cfg = s.cfg := rfl
@[simp] theorem State.dispatched_setDispatched (s : State) (v : Bool) : (s.setDispatched v).dispatched = v := rfl
@[simp] theorem State.fresh_setDispatched (s : State) (v : Bool) : (s.setDispatched v).fresh = s.fresh := rfl
@[simp] theorem State.reg_setDispatched (s : State) (v : Bool) (r : Reg) : (s.setDispatched v).reg r = s.reg r := rfl

@[simp] theorem State.regs_setFresh (s : State) (v : Nat) : (s.setFresh v).regs = s.regs := rfl
@[simp] theorem State.pc_setFresh (s : State) (v : Nat) : (s.setFresh v).pc = s.pc := rfl
@[simp] theorem State.sp_setFresh (s : State) (v : Nat) : (s.setFresh v).sp = s.sp := rfl
@[simp] theorem State.ex_setFresh (s : State) (v : Nat) : (s.setFresh v).ex = s.ex := rfl
@[simp] theorem State.ia_setFresh (s : State) (v : Nat) : (s.setFresh v).ia = s.ia := rfl
@[simp] theorem State.mem_setFresh (s : State) (v : Nat) : (s.setFresh v).mem = s.mem := rfl
@[simp] theorem State.skip_setFresh (s : State) (v : Nat) : (s.setFresh v).skip = s.skip := rfl
@[simp] theorem State.discard_setFresh (s : State) (v : Nat) : (s.setFresh v).discard = s.discard := rfl
@[simp] theorem State.hooks_setFresh (s : State) (v : Nat) : (s.setFresh v).hooks = s.hooks := rfl
@[simp] theorem State.queue_setFresh (s : State) (v : Nat) : (s.setFresh v).queue = s.queue := rfl
@[simp] theorem State.trace_setFresh (s : State) (v : Nat) : (s.setFresh v).trace = s.trace := rfl
@[simp] theorem State.cfg_setFresh (s : State) (v : Nat) : (s.setFresh v).cfg = s.cfg := rfl
@[simp] theorem State.dispatched_setFresh (s : State) (v : Nat) : (s.setFresh v).dispatched = s.dispatched := rfl
@[simp] theorem State.fresh_setFresh (s : State) (v : Nat) : (s.setFresh v).fresh = v := rfl
@[simp] theorem State.reg_setFresh (s : State) (v : Nat) (r : Reg) : (s.setFresh v).reg r = s.reg r := rfl

end Sys2Proof.Machine
end

