-- ==== Sys2Proof/Laws/Ops.lean ====
section
/-! SUPPORT. What each shared operation can do, said once; proofs cite these instead of unfolding the operation. -/

namespace Sys2Proof.Machine

/-! Memory, hooks and the stack. -/

/-- A write changes the memory and the trace, and nothing else. -/
theorem memWrite_eq (s : State) (addr v : Word) :
    memWrite s addr v = { s with mem := s.mem.write addr v, trace := s.trace ++ eventsAt s.hooks addr } := rfl

/-- What any address reads as after a write. -/
@[simp] theorem memRead_memWrite (s : State) (addr v x : Word) :
    memRead (memWrite s addr v) x = if x = addr then v else memRead s x := Memory.read_write s.mem addr v x

theorem memWrite_mem_wf {s : State} (h : s.mem.wf) (addr v : Word) : (memWrite s addr v).mem.wf :=
  Memory.wf_write h addr v

/-- The events of a write tell only of covering registrations. -/
theorem mem_eventsAt {hooks : List Hook} {addr : Word} {e : HookEvent} (h : e ∈ eventsAt hooks addr) :
    e.addr = addr ∧ ∃ k ∈ hooks, k.observer = e.observer ∧ k.lo ≤ addr ∧ addr ≤ k.hi := by
  obtain ⟨k, hk, rfl⟩ := List.mem_map.mp h
  obtain ⟨hmem, hcov⟩ := List.mem_filter.mp hk
  refine ⟨rfl, k, hmem, rfl, ?_⟩
  simpa [Hook.covers] using hcov

/-- A push moves `sp` down, stores there and fires the hooks, and does nothing else. -/
theorem pushWord_eq (s : State) (v : Word) :
    pushWord s v = { s with sp := s.sp - 1, mem := s.mem.write (s.sp - 1) v,
                            trace := s.trace ++ eventsAt s.hooks (s.sp - 1) } := rfl

theorem pushWord_mem_wf {s : State} (h : s.mem.wf) (v : Word) : (pushWord s v).mem.wf := Memory.wf_write h _ _

/-- Loading an image keeps the canonical form. -/
theorem load_mem_wf (image : List Word) : ∀ {s : State} (start : Word), s.mem.wf → (load s start image).mem.wf := by
  induction image with
  | nil => exact fun _ h => h
  | cons v rest ih => exact fun _ h => ih _ (Memory.wf_write h _ _)

/-- Consuming a next word moves `pc`, and nothing else. -/
theorem nextWord_eq (s : State) : nextWord s = (memRead s s.pc, { s with pc := s.pc + 1 }) := rfl

/-! The operand resolver. -/

/-- In skip mode an operand only consumes its words. -/
theorem consumeOnly_eq (o : Operand) (s : State) :
    consumeOnly o s = { s with pc := s.pc + BitVec.ofNat 16 o.nextWords } := by
  cases o <;> simp [consumeOnly, Operand.nextWords, nextWord, State.setPc]

/-- The mode of a resolution is `skip`. -/
theorem resolveLoc_normal (o : Operand) {s : State} (h : s.skip = false) :
    resolveLoc o s = resolveLocNormal o s := if_neg (by simp [h])

theorem resolveLoc_skip (o : Operand) {s : State} (h : s.skip = true) :
    resolveLoc o s = (.discard, consumeOnly o s) := if_pos h

theorem resolveValue_normal (o : Operand) {s : State} (h : s.skip = false) :
    resolveValue o s = resolveValueNormal o s := if_neg (by simp [h])

theorem resolveValue_skip (o : Operand) {s : State} (h : s.skip = true) :
    resolveValue o s = freeWord (consumeOnly o s) := if_pos h

theorem resolveOnce_normal (o : Operand) {s : State} (h : s.skip = false) :
    resolveOnce o s = resolveOnceNormal o s := if_neg (by simp [h])

/-- Adding 0xFFFF is going down by one: the shift of PUSH. -/
theorem add_push_shift (w : Word) : w + 0xFFFF = w - 1 := by bv_omega

/-- Resolving a locator moves `pc` and `sp` at most. -/
theorem resolveLoc_moves (o : Operand) (s : State) :
    ∃ p q, (resolveLoc o s).2 = { s with pc := p, sp := q } := by
  unfold resolveLoc
  split
  · exact ⟨_, s.sp, consumeOnly_eq o s⟩
  · cases o <;> exact ⟨_, _, rfl⟩

/-- Resolving a value moves `pc` and `sp` at most, and uses up a free value in skip mode. -/
theorem resolveValue_moves (o : Operand) (s : State) :
    ∃ p q n, (resolveValue o s).2 = { s with pc := p, sp := q, fresh := n } := by
  unfold resolveValue
  split
  · refine ⟨s.pc + BitVec.ofNat 16 o.nextWords, s.sp, s.fresh + 1, ?_⟩
    simp only [freeWord, consumeOnly_eq]
    rfl
  · cases o <;> exact ⟨_, _, _, rfl⟩

/-- A destination write changes no flag, queue, hook registration or field of the model's own but the trace. -/
theorem writeLoc_keeps (s : State) (l : Loc) (v : Word) :
    (writeLoc s l v).skip = s.skip ∧ KeepsInterruptsAndSetup s (writeLoc s l v) := by
  cases l with
  | spc k => cases k <;> exact ⟨rfl, rfl, rfl, rfl, rfl, rfl⟩
  | reg _ | mem _ | discard => exact ⟨rfl, rfl, rfl, rfl, rfl, rfl⟩

/-- A destination write is a memory write, or it leaves memory and trace alone (20_memory.md R56). -/
theorem writeLoc_mem (s : State) (l : Loc) (v : Word) :
    (∃ addr, l = .mem addr ∧ writeLoc s l v = memWrite s addr v)
    ∨ ((∀ addr, l ≠ .mem addr) ∧ (writeLoc s l v).mem = s.mem ∧ (writeLoc s l v).trace = s.trace) := by
  cases l with
  | mem addr => exact .inl ⟨addr, rfl, rfl⟩
  | spc k => cases k <;> exact .inr ⟨nofun, rfl, rfl⟩
  | reg _ | discard => exact .inr ⟨nofun, rfl, rfl⟩

theorem writeLoc_mem_wf {s : State} (h : s.mem.wf) (l : Loc) (v : Word) : (writeLoc s l v).mem.wf := by
  rcases writeLoc_mem s l v with ⟨addr, rfl, e⟩ | ⟨-, e, -⟩
  · exact e ▸ memWrite_mem_wf h addr v
  · exact e ▸ h

/-! The handler template. -/

/-- The `ex` write touches `ex` alone. -/
theorem writeEx_eq (s : State) (e : Option Word) : writeEx s e = { s with ex := e.getD s.ex } := by
  cases e <;> rfl

/-- The guard: in skip mode the flag is cleared and that is all; otherwise the effect runs. -/
theorem skipGuard_cases (s : State) (effect : State → State) :
    (s.skip = true ∧ skipGuard s effect = s.setSkip false) ∨ (s.skip = false ∧ skipGuard s effect = effect s) := by
  unfold skipGuard
  cases s.skip <;> simp

/-- The two writes of an instruction are a destination write before or after an `ex` write. -/
theorem exAndDest_cases (s : State) (l : Loc) (q : AluResult) :
    (s.cfg.exDestOrder = .exFirst ∧ exAndDest s l q = writeLoc { s with ex := q.e.getD s.ex } l q.r)
    ∨ (s.cfg.exDestOrder = .destFirst
        ∧ exAndDest s l q = { writeLoc s l q.r with ex := q.e.getD (writeLoc s l q.r).ex }) := by
  unfold exAndDest
  cases s.cfg.exDestOrder with
  | exFirst => exact .inl ⟨rfl, congrArg (writeLoc · l q.r) (writeEx_eq s q.e)⟩
  | destFirst => exact .inr ⟨rfl, writeEx_eq (writeLoc s l q.r) q.e⟩

/-! Interrupts. -/

/-- A raise drops the message or appends it. -/
theorem raiseInterrupt_cases (s : State) (m : Word) :
    (s.ia = 0 ∧ raiseInterrupt s m = s) ∨ (s.ia ≠ 0 ∧ raiseInterrupt s m = { s with queue := s.queue ++ [m] }) := by
  unfold raiseInterrupt
  split
  case isTrue h => exact .inl ⟨h, rfl⟩
  case isFalse h => exact .inr ⟨h, rfl⟩

/-- Interrupt entry: two pushes, then `pc` and A. -/
theorem enterInterrupt_eq (s : State) (m : Word) :
    enterInterrupt s m = { pushWord (pushWord s s.pc) (s.reg .a) with pc := s.ia, regs := s.regs.put .a m } := rfl

/-- What a dispatch can do: nothing, drop the head, or deliver it. -/
theorem dispatch_cases (s : State) :
    (s.queue = [] ∧ dispatch s = s)
    ∨ (∃ m rest, s.queue = m :: rest ∧ s.ia = 0 ∧ dispatch s = { s with queue := rest })
    ∨ (∃ m rest, s.queue = m :: rest ∧ s.ia ≠ 0 ∧ dispatch s = enterInterrupt { s with queue := rest } m) := by
  unfold dispatch
  split
  case h_1 h => exact .inl ⟨h, rfl⟩
  case h_2 m rest h =>
    split
    case isTrue hi => exact .inr (.inl ⟨m, rest, h, hi, rfl⟩)
    case isFalse hi => exact .inr (.inr ⟨m, rest, h, hi, rfl⟩)

/-- What the environment's dispatch can do: nothing, or the dispatch where that is enabled. -/
theorem environmentDispatch_cases (s : State) :
    environmentDispatch s = s ∨ (dispatchReady s = true ∧ environmentDispatch s = dispatchHere s) := by
  unfold environmentDispatch
  split
  case isTrue h => exact .inr ⟨((Bool.and_eq_true _ _).mp h).1, rfl⟩
  case isFalse => exact .inl rfl

/-- The state the host's step begins in: the present one, or the one after an enabled dispatch, under `EAGER`. -/
theorem settleBoundary_cases (s : State) :
    settleBoundary s = s
    ∨ (s.cfg.irqMode = .eager ∧ dispatchReady s = true ∧ settleBoundary s = dispatchHere s) := by
  unfold settleBoundary
  split
  case isTrue he => exact (environmentDispatch_cases s).imp_right fun h => ⟨he, h⟩
  case isFalse => exact .inl rfl

/-- What a boundary can do: go on, perhaps having used up a free choice, or dispatch where that is enabled. -/
theorem boundary_cases (s : State) :
    (∃ n, boundary s = .proceeds { s with fresh := n })
    ∨ (dispatchReady s = true ∧ ∃ n, boundary s = .dispatched (dispatchHere { s with fresh := n })) := by
  unfold boundary
  split
  case isFalse => exact .inl ⟨s.fresh, rfl⟩
  case isTrue hr =>
    split
    · exact .inl ⟨s.fresh, rfl⟩
    · exact .inr ⟨hr, s.fresh, rfl⟩
    · dsimp only
      split
      · exact .inr ⟨hr, s.fresh + 1, rfl⟩
      · exact .inl ⟨s.fresh + 1, rfl⟩

end Sys2Proof.Machine
end

