-- ==== Sys2Proof/Laws/PerInstr.lean ====
section
/-! SUPPORT. A statement about every instruction as syntax, one lemma per constructor: an instruction is one, two
or three words long (30_encoding.md R80). -/

namespace Sys2Proof.Laws

/-- An operand consumes at most one next word (R85). -/
theorem nextWords_le_one (o : Operand) : o.nextWords ≤ 1 := by
  cases o <;> simp [Operand.nextWords]

/-- The instruction's length is between one and three words (R80). -/
def LengthBound.Statement (i : Instr) : Prop := 1 ≤ i.length ∧ i.length ≤ 3

/-- The bound from the instruction's operand words. -/
theorem lengthBound_of_nextWords {i : Instr} (h : i.nextWords ≤ 2) : LengthBound.Statement i :=
  ⟨Nat.le_add_right 1 _, Nat.add_le_add_left h 1⟩

/-- Two operands consume at most two next words. -/
theorem nextWords_add_le_two (b a : Operand) : b.nextWords + a.nextWords ≤ 2 :=
  Nat.add_le_add (nextWords_le_one b) (nextWords_le_one a)

/-- One operand consumes at most two next words. -/
theorem nextWords_le_two (a : Operand) : a.nextWords ≤ 2 := Nat.le_succ_of_le (nextWords_le_one a)

theorem LengthBound.set (b a : Operand) : LengthBound.Statement (.set b a) := lengthBound_of_nextWords (nextWords_add_le_two b a)
theorem LengthBound.add (b a : Operand) : LengthBound.Statement (.add b a) := lengthBound_of_nextWords (nextWords_add_le_two b a)
theorem LengthBound.sub (b a : Operand) : LengthBound.Statement (.sub b a) := lengthBound_of_nextWords (nextWords_add_le_two b a)
theorem LengthBound.mul (b a : Operand) : LengthBound.Statement (.mul b a) := lengthBound_of_nextWords (nextWords_add_le_two b a)
theorem LengthBound.div (b a : Operand) : LengthBound.Statement (.div b a) := lengthBound_of_nextWords (nextWords_add_le_two b a)
theorem LengthBound.mod (b a : Operand) : LengthBound.Statement (.mod b a) := lengthBound_of_nextWords (nextWords_add_le_two b a)
theorem LengthBound.shl (b a : Operand) : LengthBound.Statement (.shl b a) := lengthBound_of_nextWords (nextWords_add_le_two b a)
theorem LengthBound.shr (b a : Operand) : LengthBound.Statement (.shr b a) := lengthBound_of_nextWords (nextWords_add_le_two b a)
theorem LengthBound.and (b a : Operand) : LengthBound.Statement (.and b a) := lengthBound_of_nextWords (nextWords_add_le_two b a)
theorem LengthBound.bor (b a : Operand) : LengthBound.Statement (.bor b a) := lengthBound_of_nextWords (nextWords_add_le_two b a)
theorem LengthBound.xor (b a : Operand) : LengthBound.Statement (.xor b a) := lengthBound_of_nextWords (nextWords_add_le_two b a)
theorem LengthBound.ife (b a : Operand) : LengthBound.Statement (.ife b a) := lengthBound_of_nextWords (nextWords_add_le_two b a)
theorem LengthBound.ifn (b a : Operand) : LengthBound.Statement (.ifn b a) := lengthBound_of_nextWords (nextWords_add_le_two b a)
theorem LengthBound.ifg (b a : Operand) : LengthBound.Statement (.ifg b a) := lengthBound_of_nextWords (nextWords_add_le_two b a)
theorem LengthBound.ifb (b a : Operand) : LengthBound.Statement (.ifb b a) := lengthBound_of_nextWords (nextWords_add_le_two b a)
theorem LengthBound.jsr (a : Operand) : LengthBound.Statement (.jsr a) := lengthBound_of_nextWords (nextWords_le_two a)
theorem LengthBound.int (a : Operand) : LengthBound.Statement (.int a) := lengthBound_of_nextWords (nextWords_le_two a)
theorem LengthBound.iag (a : Operand) : LengthBound.Statement (.iag a) := lengthBound_of_nextWords (nextWords_le_two a)
theorem LengthBound.ias (a : Operand) : LengthBound.Statement (.ias a) := lengthBound_of_nextWords (nextWords_le_two a)
theorem LengthBound.hwn (a : Operand) : LengthBound.Statement (.hwn a) := lengthBound_of_nextWords (nextWords_le_two a)
theorem LengthBound.hwq (a : Operand) : LengthBound.Statement (.hwq a) := lengthBound_of_nextWords (nextWords_le_two a)
theorem LengthBound.hwi (a : Operand) : LengthBound.Statement (.hwi a) := lengthBound_of_nextWords (nextWords_le_two a)

end Sys2Proof.Laws
end

