-- ==== Sys2Proof/Tests/Slice0.lean ====
section
/-! SUPPORT. Tests: ill-formed terms refused by WellFormed, words decoded as the spec encodes them, one step per
instruction on vectors of 95_test_vectors.md (named in each comment), and a witness for every statement's hypotheses. -/

namespace Sys2Proof.Tests

open Sys2Proof.Machine

/-! Helpers: small states, one transition, the fields a vector names. -/

/-- The reset state with an instruction's words at 0x0100, where `pc` points (95_test_vectors.md, conventions). -/
def at100 (words : List Word) : State := load { State.reset with pc := 0x0100 } 0x0100 words

/-- The state after one transition, if there is one. -/
def next (s : State) : Option State :=
  match step s with
  | .next t => some t
  | .fault _ => none
  | .refused _ => none

/-- A, `ex`, `pc` and `skip` after one transition. -/
def aExPcSkip (s : State) : Option (Word × Word × Word × Bool) := (next s).map fun t => (t.reg .a, t.ex, t.pc, t.skip)

/-- `sp`, one cell, `pc` and the trace's addresses after one transition. -/
def spCellPcTrace (addr : Word) (s : State) : Option (Word × Word × Word × List Word) :=
  (next s).map fun t => (t.sp, memRead t addr, t.pc, t.trace.map HookEvent.addr)

/-- A hook over all of memory. -/
def watched (s : State) : State := registerHook s 0x0000 0xFFFF 1

/-- A and B set. -/
def withAB (s : State) (a b : Word) : State := (s.setReg .a a).setReg .b b

/-! WellFormed refuses each kind of ill-formed term. -/

/-- A literal's code is not below 0x20 (R84). -/
theorem test_wf_refuses_low_literal : (Instr.set (.reg .a) (.lit 0x1F)).wf = false := by decide
theorem test_wf_refuses_low_literal_destination : (Instr.add (.lit 0x00) (.reg .a)).wf = false := by decide
/-- No code of the default map is invalid (R90). -/
theorem test_wf_refuses_invalid : (Instr.ife (.invalid 0x3F) .pop).wf = false := by decide
theorem test_wf_refuses_invalid_extended : (Instr.jsr (.invalid 0x00)).wf = false := by decide
theorem test_wf_accepts : (Instr.hwn (.lit 0x3F)).wf = true := by decide
theorem test_encode_refuses_ill_formed : encode (.jsr (.invalid 0x00)) = none := by decide

/-! Decoding: a word per instruction, written out from R81, R82, R83, R87, R88; words of section 95. -/

theorem test_decode_set : decode 0x7C01 = .instr (.set (.reg .a) .imm) := by decide
theorem test_encode_set : encode (.set (.reg .a) .imm) = some 0x7C01 := by decide
theorem test_decode_add : decode 0x95A2 = .instr (.add .push (.lit 0x25)) := by decide
theorem test_decode_sub : decode 0x85C3 = .instr (.sub .pc (.lit 0x21)) := by decide
theorem test_decode_mul : decode 0x8004 = .instr (.mul (.reg .a) (.lit 0x20)) := by decide
theorem test_decode_div : decode 0x0405 = .instr (.div (.reg .a) (.reg .b)) := by decide
theorem test_decode_mod : decode 0x0406 = .instr (.mod (.reg .a) (.reg .b)) := by decide
theorem test_decode_shl : decode 0x9007 = .instr (.shl (.reg .a) (.lit 0x24)) := by decide
theorem test_decode_shr : decode 0x9008 = .instr (.shr (.reg .a) (.lit 0x24)) := by decide
theorem test_decode_and : decode 0x7C89 = .instr (.and (.ind .a) .imm) := by decide
theorem test_decode_bor : decode 0x040A = .instr (.bor (.reg .a) (.reg .b)) := by decide
theorem test_decode_xor : decode 0x000B = .instr (.xor (.reg .a) (.reg .a)) := by decide
theorem test_decode_ife : decode 0x618C = .instr (.ife .pop .pop) := by decide
theorem test_decode_ifn : decode 0x7D0D = .instr (.ifn (.indNext .a) .imm) := by decide
theorem test_encode_ifn : encode (.ifn (.indNext .a) .imm) = some 0x7D0D := by decide
theorem test_decode_ifg : decode 0x1A4E = .instr (.ifg (.lit 0x24) (.reg .i)) := by decide
theorem test_encode_ifg : encode (.ifg (.lit 0x24) (.reg .i)) = some 0x1A4E := by decide
theorem test_decode_ifb : decode 0x040F = .instr (.ifb (.reg .a) (.reg .b)) := by decide
theorem test_decode_jsr : decode 0xC010 = .instr (.jsr (.lit 0x30)) := by decide
theorem test_decode_int : decode 0x9480 = .instr (.int (.lit 0x25)) := by decide
theorem test_decode_iag : decode 0x2090 = .instr (.iag (.ind .a)) := by decide
theorem test_decode_ias : decode 0x7CA0 = .instr (.ias .imm) := by decide
theorem test_decode_hwn : decode 0x6900 = .instr (.hwn .push) := by decide
theorem test_encode_hwn : encode (.hwn .push) = some 0x6900 := by decide
theorem test_decode_hwq : decode 0x8110 = .instr (.hwq (.lit 0x20)) := by decide
theorem test_decode_hwi : decode 0x6120 = .instr (.hwi .pop) := by decide
theorem test_decode_peek : decode 0x6401 = .instr (.set (.reg .a) .peek) := by decide
theorem test_decode_sp : decode 0x7DB1 = .instr (.set .sp .imm) := by decide
theorem test_decode_ex : decode 0x01D1 = .instr (.set .ex (.reg .a)) := by decide
theorem test_decode_ia : decode 0x05E1 = .instr (.set .ia (.reg .b)) := by decide
theorem test_encode_ia : encode (.set .ia (.reg .b)) = some 0x05E1 := by decide
theorem test_decode_pc : decode 0x7001 = .instr (.set (.reg .a) .pc) := by decide
theorem test_decode_unassigned_0000 : decode 0x0000 = .unassigned 0x0000 := by decide
theorem test_decode_unassigned_7DF0 : decode 0x7DF0 = .unassigned 0x7DF0 := by decide
theorem test_decodeTableWord : decodeTableWord 16 0x0003 = some (.sub (.reg .a) (.reg .a)) := by decide
/-- R92 and V31: three words, `b`'s next word first. -/
theorem test_encodeWords : encodeWords (.add (.indNext .a) .imm) 0x0010 0x1234 = some [0x7D02, 0x0010, 0x1234] := by
  decide
/-- A code outside another operand map is an invalid operand: locator `Discard`, value 0 (R91). -/
theorem test_other_operand_map :
    decodeWith { defaultEncoding with operands := registerCodes 0x00 .reg } 0x2001
      = .instr (.set (.reg .a) (.invalid 0x08))
    ∧ resolveLoc (.invalid 0x08) State.reset = (.discard, State.reset)
    ∧ resolveValue (.invalid 0x08) State.reset = (0, State.reset) := by decide

/-! One step per instruction: values of 95_test_vectors.md. -/

/-- V1. -/
theorem test_set_immediate : aExPcSkip (at100 [0x7C01, 0x0030]) = some (0x0030, 0, 0x0102, false) := by decide
/-- V4: PUSH, then POP of the same cell; one hook event. -/
theorem test_set_push_pop :
    spCellPcTrace 0x7FFF (watched (load { at100 [0x61A1] with sp := 0x8000 } 0x7FFF [0x4444]))
      = some (0x8000, 0x4444, 0x0101, [0x7FFF]) := by decide
/-- V20. -/
theorem test_add_carry : aExPcSkip (withAB (at100 [0x0402]) 0xFFFF 1) = some (0, 1, 0x0101, false) := by decide
/-- V24: `sp` moves once. -/
theorem test_add_push :
    spCellPcTrace 0x7FFF (watched (load { at100 [0x95A2] with sp := 0x8000 } 0x7FFF [0x0010]))
      = some (0x7FFF, 0x0015, 0x0101, [0x7FFF]) := by decide
/-- V32. -/
theorem test_sub_borrow : aExPcSkip (withAB (at100 [0x0403]) 0 1) = some (0xFFFF, 0xFFFF, 0x0101, false) := by decide
/-- V36: the stop idiom at the top of memory. -/
theorem test_sub_pc_wraps :
    aExPcSkip (load { State.reset with pc := 0xFFFF } 0xFFFF [0x85C3]) = some (0, 0xFFFF, 0xFFFF, false) := by decide
/-- V40. -/
theorem test_mul_high : aExPcSkip (withAB (at100 [0x0404]) 0xFFFF 0xFFFF) = some (1, 0xFFFE, 0x0101, false) := by decide
/-- V44. -/
theorem test_div_fraction : aExPcSkip (withAB (at100 [0x0405]) 7 2) = some (3, 0x8000, 0x0101, false) := by decide
/-- S4. -/
theorem test_div_by_zero :
    aExPcSkip ((withAB (at100 [0x0405]) 7 0).setEx 0x1234) = some (0, 0, 0x0101, false) := by decide
/-- V49. -/
theorem test_mod_by_zero :
    aExPcSkip ((withAB (at100 [0x0406]) 7 0).setEx 0x1234) = some (0, 0x1234, 0x0101, false) := by decide
/-- V51. -/
theorem test_mod : aExPcSkip (withAB (at100 [0x0406]) 0xFFFF 0x10) = some (0x000F, 0, 0x0101, false) := by decide
/-- Section 2.4, B = 0011. -/
theorem test_shl_17 : aExPcSkip (withAB (at100 [0x0407]) 0x1234 0x11) = some (0, 0x2468, 0x0101, false) := by decide
/-- Section 2.4, B = FFFF. -/
theorem test_shl_unmasked : aExPcSkip (withAB (at100 [0x0407]) 0x1234 0xFFFF) = some (0, 0, 0x0101, false) := by decide
/-- Section 2.4, B = 0004. -/
theorem test_shr_4 : aExPcSkip (withAB (at100 [0x0408]) 0x1234 4) = some (0x0123, 0x4000, 0x0101, false) := by decide
/-- Section 2.4, B = 0011. -/
theorem test_shr_17 : aExPcSkip (withAB (at100 [0x0408]) 0x1234 0x11) = some (0, 0x091A, 0x0101, false) := by decide
/-- V60. -/
theorem test_and :
    aExPcSkip ((withAB (at100 [0x0409]) 0xF0F0 0x3C3C).setEx 0x1234) = some (0x3030, 0x1234, 0x0101, false) := by decide
/-- V61. -/
theorem test_bor :
    aExPcSkip ((withAB (at100 [0x040A]) 0xF0F0 0x3C3C).setEx 0x1234) = some (0xFCFC, 0x1234, 0x0101, false) := by decide
/-- V62. -/
theorem test_xor :
    aExPcSkip ((withAB (at100 [0x040B]) 0xF0F0 0x3C3C).setEx 0x1234) = some (0xCCCC, 0x1234, 0x0101, false) := by decide
/-- V71. -/
theorem test_ife_fails : aExPcSkip (withAB (at100 [0x040C]) 5 6) = some (5, 0, 0x0101, true) := by decide
/-- V80. -/
theorem test_ife_pops_twice :
    spCellPcTrace 0x8000 { at100 [0x618C] with sp := 0x8000 } = some (0x8002, 0, 0x0101, []) := by decide
/-- V72. -/
theorem test_ifn_fails : aExPcSkip (withAB (at100 [0x040D]) 5 5) = some (5, 0, 0x0101, true) := by decide
/-- V83: skipped, three words. -/
theorem test_ifn_skipped :
    aExPcSkip { at100 [0x7D0D, 0x0001, 0x1234] with skip := true } = some (0, 0, 0x0103, false) := by decide
/-- V74: unsigned. -/
theorem test_ifg_unsigned : aExPcSkip (withAB (at100 [0x040E]) 0x8000 1) = some (0x8000, 0, 0x0101, false) := by decide
/-- V75. -/
theorem test_ifg_equal : aExPcSkip (withAB (at100 [0x040E]) 5 5) = some (5, 0, 0x0101, true) := by decide
/-- V77. -/
theorem test_ifb_fails : aExPcSkip (withAB (at100 [0x040F]) 0x00F0 0x0F0F) = some (0x00F0, 0, 0x0101, true) := by decide
/-- V78. -/
theorem test_ifb_holds : aExPcSkip (withAB (at100 [0x040F]) 0x00F0 0x0010) = some (0x00F0, 0, 0x0101, false) := by decide
/-- V90: the pushed value is past the immediate. -/
theorem test_jsr :
    spCellPcTrace 0x7FFF (watched { at100 [0x7C10, 0x2000] with sp := 0x8000 })
      = some (0x7FFF, 0x0102, 0x2000, [0x7FFF]) := by decide
/-- V92: the target is popped before the push. -/
theorem test_jsr_pop :
    spCellPcTrace 0x8000 (watched (load { at100 [0x6010] with sp := 0x8000 } 0x8000 [0x3000]))
      = some (0x8000, 0x0101, 0x3000, [0x8000]) := by decide
/-- V96. -/
theorem test_int : (next { at100 [0x9480] with ia := 0x0010 }).map State.queue = some [0x0005] := by decide
/-- V97. -/
theorem test_int_dropped : (next (at100 [0x9480])).map State.queue = some [] := by decide
/-- V99. -/
theorem test_iag : aExPcSkip { at100 [0x0090] with ia := 0x1234 } = some (0x1234, 0, 0x0101, false) := by decide
/-- V101: skipped. -/
theorem test_iag_skipped :
    aExPcSkip { at100 [0x0090] with ia := 0x1234, skip := true } = some (0, 0, 0x0101, false) := by decide
/-- V102. -/
theorem test_ias : (next (at100 [0x7CA0, 0x0010])).map (fun t => (t.ia, t.pc)) = some (0x0010, 0x0102) := by decide
/-- V104: skipped. -/
theorem test_ias_skipped :
    (next { at100 [0x7CA0, 0x0010] with skip := true }).map (fun t => (t.ia, t.pc, t.skip))
      = some (0, 0x0102, false) := by decide
/-- V105. -/
theorem test_hwn :
    (next (watched ((at100 [0x0100]).setReg .a 0x1234))).map (fun t => (t.reg .a, t.trace)) = some (0, []) := by decide
/-- V107. -/
theorem test_hwn_push :
    spCellPcTrace 0x7FFF (watched (load { at100 [0x6900] with sp := 0x8000 } 0x7FFF [0xFFFF]))
      = some (0x7FFF, 0, 0x0101, [0x7FFF]) := by decide
/-- V108. -/
theorem test_hwq :
    (next { at100 [0x8110] with regs := ⟨0x1111, 0x1111, 0x1111, 0x1111, 0x1111, 0x1111, 7, 8⟩ }).map State.regs
      = some ⟨0, 0, 0, 0, 0, 0x1111, 7, 8⟩ := by decide
/-- V110. -/
theorem test_hwi_pop : spCellPcTrace 0 { at100 [0x6120] with sp := 0x8000 } = some (0x8001, 0, 0x0101, []) := by decide

/-! Operands, hooks, refusals, interrupts. -/

/-- V9: the `PC` operand is read past `b`'s next word. -/
theorem test_pc_operand :
    spCellPcTrace 0x2010 ((at100 [0x7101, 0x0010]).setReg .a 0x2000) = some (0, 0x0102, 0x0102, []) := by decide
/-- V27, both orders. -/
theorem test_add_ex_orders :
    aExPcSkip ((at100 [0x85D2]).setEx 0xFFFF) = some (0, 0, 0x0101, false)
    ∧ aExPcSkip { (at100 [0x85D2]).setEx 0xFFFF with cfg := { defaultConfig with exDestOrder := .destFirst } }
        = some (0, 1, 0x0101, false) := by decide
/-- V16: a skipped three-word `SET`. -/
theorem test_set_skipped :
    aExPcSkip { at100 [0x7D01, 0x0001, 0x1234] with skip := true } = some (0, 0, 0x0103, false) := by decide
/-- S7: overlapping hooks fire in registration order, an empty range never. -/
theorem test_hooks_in_order :
    ((next (registerHook (registerHook (registerHook (registerHook (registerHook
        (withAB (at100 [0x0481]) 0x2005 0x0009) 0x2000 0x20FF 1) 0x2005 0x2005 2) 0x3000 0x30FF 3) 0x2000 0x2005 4)
        0x2006 0x2000 5)).map fun t => t.trace.map HookEvent.observer) = some [1, 2, 4] := by decide
/-- V122: refused past its own word only, in either mode (V123). -/
theorem test_refused :
    (match step { at100 [0x7DF0] with skip := true } with
      | .refused (.undefinedInstruction w t) => (w, t.pc, t.skip)
      | _ => (0, 0, false)) = (0x7DF0, 0x0101, true) := by decide
/-- The start of V130, under `EAGER`. -/
def v130 : State :=
  watched { State.reset with
    queue := [0x0005], ia := 0x1000, pc := 0x0100, regs := State.reset.regs.put .a 0x0077,
    cfg := { defaultConfig with irqMode := .eager } }

/-- V130. -/
theorem test_dispatch_stack :
    (next v130).map (fun t => (t.sp, memRead t 0xFFFF, memRead t 0xFFFE, t.trace.map HookEvent.addr))
      = some (0xFFFE, 0x0100, 0x0077, [0xFFFF, 0xFFFE]) := by decide
theorem test_dispatch_entry :
    (next v130).map (fun t => (t.queue, t.pc, t.reg .a)) = some ([], 0x1000, 0x0005) := by decide
/-- V131. -/
theorem test_dispatch_dropped :
    dispatch { State.reset with queue := [0x0005, 0x0006], pc := 0x0100 }
      = { State.reset with queue := [0x0006], pc := 0x0100 } := by decide
/-- V132. -/
theorem test_raise : (raiseInterrupt { State.reset with ia := 0x0010, queue := [5] } 9).queue = [5, 9] := by decide
/-- V133: no dispatch while a skip is pending. -/
theorem test_no_dispatch_in_skip :
    dispatchReady { State.reset with queue := [5], ia := 0x1000, skip := true } = false := by decide
/-- A word placed at the fetch runs as the first instruction after reset. -/
theorem test_withFetchWord : aExPcSkip (State.reset.withFetchWord 16 0x8C01) = some (3, 0, 1, false) := by decide

/-! A witness for the hypotheses of every statement of Certificates/Slice0/Obligations.lean, clause by clause. -/

/-- A well-formed instruction for `DecodeInvertsEncode`, at both ends of the literal codes. -/
theorem test_witness_well_formed :
    (Instr.add (.lit 0x20) (.lit 0x3F)).wf = true ∧ (Instr.jsr (.indNext .j)).wf = true := by decide
/-- For `EncodeInvertsDecode`, `LengthFromFirstWord` and `PlacedInstrRuns`: words that decode, at the boundaries of
the operand codes with a next word. -/
theorem test_witness_decode :
    decode 0xFFFF = .instr (.ifb (.lit 0x3F) (.lit 0x3F)) ∧ decode 0x3D01 = .instr (.set (.indNext .a) (.ind .j))
    ∧ decode 0x6171 = .instr (.set (.indNext .j) .pop) ∧ decode 0x7DF1 = .instr (.set .imm .imm)
    ∧ decode 0x0010 = .instr (.jsr (.reg .a)) := by decide
/-- The lengths of those words (R86). -/
theorem test_lengths :
    [0xFFFF, 0x3D01, 0x6171, 0x7DF1, 0x0010, 0x0000].map wordLength = [some 1, some 2, some 2, some 3, some 1, none] := by
  decide
/-- For `OpcodeMap`: words with the opcode fields its clauses name, first and last. -/
theorem test_witness_opcodes :
    fieldAt 0xFFF1 0 4 = 0x1 ∧ fieldAt 0x000F 0 4 = 0xF
    ∧ fieldAt 0xFC10 0 4 = 0 ∧ fieldAt 0xFC10 4 6 = 0x01 ∧ fieldAt 0x0120 0 4 = 0 ∧ fieldAt 0x0120 4 6 = 0x12 := by
  decide
/-- For `OpcodeMap`: the first and the last register of its list, the first and the last literal code. -/
theorem test_witness_operand_codes :
    [Reg.a, .b, .c, .x, .y, .z, .i, .j][0]? = some .a ∧ [Reg.a, .b, .c, .x, .y, .z, .i, .j][7]? = some .j
    ∧ (0x20 : BitVec 6) ≤ 0x20 ∧ (0x20 : BitVec 6) ≤ 0x3F := by decide
/-- For every statement whose one hypothesis is normal mode: `LocatorTable`, `ValueTable`, the results of the
instructions, `CallThenReturn`. -/
theorem test_witness_normal_mode : (at100 [0x0402]).skip = false := by decide
/-- For `SkipModeLocator` and `SkipModeValue`, with an operand that has a next word. -/
theorem test_witness_skip_mode :
    ({ at100 [] with skip := true } : State).skip = true
    ∧ resolveLoc .imm { at100 [] with skip := true } = (.discard, { at100 [] with pc := 0x0101, skip := true }) := by
  decide
/-- For `ResolveOnceReadsTheLocator`: an operand with a locator and one without, with the value of each. -/
theorem test_witness_resolve_once :
    (resolveLoc .pop (at100 [7])).1 ≠ .discard ∧ resolveOnce .imm (resolveLoc .imm (at100 [7])).2 = 7 := by decide
/-- For `WordConsumption`: skipped, and not skipped with no write of `pc`. -/
theorem test_witness_word_consumption :
    (∃ t, exec (.jsr .imm) { at100 [] with skip := true } = .next t ∧ t.pc = 0x0101)
    ∧ (Instr.set (.reg .a) .imm).writesPc = false
    ∧ ∃ t, exec (.set (.reg .a) .imm) (at100 []) = .next t ∧ t.pc = 0x0101 :=
  ⟨⟨_, rfl, by decide⟩, by decide, _, rfl, by decide⟩
/-- For `LocatorRoundTrip`: an operand for each clause; the last is the one that its second clause leaves out. -/
theorem test_witness_round_trip :
    (Operand.nextWords .peek = 0 ∧ Operand.spShift .peek = 0 ∧ operandLoc .peek (at100 []) ≠ .discard)
    ∧ operandCell (.indNext .a) (at100 [5]) ≠ some (at100 [5]).pc
    ∧ operandLoc (.lit 0x20) (at100 []) = .discard ∧ operandLoc .imm (at100 []) = .discard
    ∧ operandCell (.indNext .a) (at100 [0x0100]) = some 0x0100 := by decide
/-- For `LiteralValues`, at both ends. -/
theorem test_witness_literals :
    State.reset.skip = false ∧ State.reset.cfg.literal = .minus20
    ∧ resolveValue (operandAt defaultEncoding 0x20) State.reset = (0, State.reset)
    ∧ resolveValue (operandAt defaultEncoding 0x3F) State.reset = (31, State.reset) := by decide
/-- For `ShiftCorners`: an amount for each clause, 32 at its boundary, and a destination that is not `EX`. -/
theorem test_witness_shift_corners :
    operandLoc (.reg .a) (at100 [16]) ≠ .spc .ex ∧ sourceValue (.reg .a) (.lit 0x20) (at100 []) = 0
    ∧ sourceValue (.reg .a) .imm (at100 [16]) = 16 ∧ sourceValue (.reg .a) .imm (at100 [32]) = 32 := by decide
/-- For `DivideByZeroIsDefined`. -/
theorem test_witness_divide_by_zero :
    (at100 []).skip = false ∧ sourceValue (.reg .a) (.reg .b) (at100 []) = 0 := by decide
/-- For `HooksFireOnUnchangedValue`: `SET [A], 5` on a cell that holds 5. -/
theorem test_witness_unchanged_value :
    let s := (load (at100 []) 0x2000 [5]).setReg .a 0x2000
    s.skip = false ∧ operandCell (.ind .a) s = some 0x2000 ∧ sourceValue (.ind .a) (.lit 0x25) s = memRead s 0x2000 := by
  decide
/-- For `SkipIsolation`, and `HandlersClearSkip` in its second case. -/
theorem test_witness_skip_isolation :
    let s : State := { at100 [0x7D02, 0x3000, 0x1234] with skip := true }
    s.skip = true ∧ decode (memRead s s.pc) = .instr (.add (.indNext .a) .imm) := by decide
/-- For `HandlersClearSkip` in its first case. -/
theorem test_witness_handlers_clear_skip :
    Instr.isConditional (.hwi .pop) = false ∧ ∃ t, exec (.hwi .pop) (at100 []) = .next t := ⟨by decide, _, rfl⟩
/-- For `SkipFlagAfterStep`: a step that sets the flag and one that does not. -/
theorem test_witness_skip_flag :
    (∃ t, stepInstrWith defaultEncoding (at100 [0x040D]) = .next t ∧ t.skip = true)
    ∧ ∃ t, stepInstrWith defaultEncoding (at100 [0x040C]) = .next t ∧ t.skip = false :=
  ⟨⟨_, rfl, by decide⟩, _, rfl, by decide⟩
/-- For `FrameOfEveryInstruction`: the instructions that move a register, `ia`, `ex`, `sp`, the queue and memory. -/
theorem test_witness_frame :
    let s := (withAB (at100 []) 0xFFFF 1).setIa 7
    (∃ t, exec (.add (.reg .a) (.reg .b)) s = .next t ∧ t.reg .a ≠ s.reg .a ∧ t.ex ≠ s.ex)
    ∧ (∃ t, exec (.hwq .pop) s = .next t ∧ t.reg .b ≠ s.reg .b ∧ t.sp ≠ s.sp)
    ∧ (∃ t, exec (.ias (.reg .a)) s = .next t ∧ t.ia ≠ s.ia)
    ∧ (∃ t, exec (.int (.reg .a)) s = .next t ∧ t.queue ≠ s.queue)
    ∧ (∃ t, exec (.set (.ind .a) (.reg .b)) s = .next t ∧ memRead t 0xFFFF ≠ memRead s 0xFFFF)
    ∧ ∃ t, exec (.jsr (.reg .a)) s = .next t ∧ memRead t 0xFFFF ≠ memRead s 0xFFFF :=
  ⟨⟨_, rfl, by decide⟩, ⟨_, rfl, by decide⟩, ⟨_, rfl, by decide⟩, ⟨_, rfl, by decide⟩, ⟨_, rfl, by decide⟩, _, rfl,
    by decide⟩
/-- For the further clauses of `FrameOfEveryInstruction`: the trace, `discard` in both modes, `pc` and `skip`. -/
theorem test_witness_frame_rest :
    let s := withAB (watched (at100 [])) 1 2
    let k : State := { s with skip := true }
    (∃ t, exec (.set (.ind .a) (.reg .b)) s = .next t ∧ t.trace ≠ s.trace)
    ∧ (∃ t, exec (.set (.lit 0x20) (.reg .b)) s = .next t ∧ t.discard ≠ s.discard)
    ∧ (∃ t, exec (.iag (.reg .a)) { k with ia := 7 } = .next t ∧ t.discard ≠ k.discard)
    ∧ (∃ t, exec (.jsr (.reg .a)) s = .next t ∧ t.pc ≠ s.pc)
    ∧ (∃ t, exec (.ife (.reg .a) (.reg .b)) s = .next t ∧ t.skip = true)
    ∧ s.skip = false ∧ k.skip = true :=
  ⟨⟨_, rfl, by decide⟩, ⟨_, rfl, by decide⟩, ⟨_, rfl, by decide⟩, ⟨_, rfl, by decide⟩, ⟨_, rfl, by decide⟩, by decide,
    by decide⟩
/-- For `HooksThatFire`: an address at each bound of a range, one beyond each, and an empty range (R54, S7). -/
theorem test_witness_hooks_that_fire :
    ([0x1FFF, 0x2000, 0x20FF, 0x2100].map fun a => (eventsAt [⟨0x2000, 0x20FF, 1⟩] a).length) = [0, 1, 1, 0]
    ∧ (0x2000 : Word) < 0x2006 ∧ eventsAt [⟨0x2006, 0x2000, 5⟩] 0x2003 = [] := by decide
/-- For `MemoryChangesAreNotified` and `StepKeepsHooksAndConfiguration`: a step and a dispatch that change memory. -/
theorem test_witness_memory_changes :
    (∃ t, step (watched (at100 [0x7C10, 0x2000])) = .next t ∧ memRead t 0xFFFF ≠ 0)
    ∧ ∃ t, step v130 = .next t ∧ memRead t 0xFFFE ≠ memRead v130 0xFFFE :=
  ⟨⟨_, rfl, by decide⟩, _, rfl, by decide⟩
/-- For `DispatchDelivers` and `InterruptReturn`. -/
theorem test_witness_dispatch : v130.queue = 0x0005 :: [] ∧ v130.ia ≠ 0 ∧ v130.skip = false := by decide
/-- For `BoundaryPolicy`: no dispatch, for each of its four reasons. -/
theorem test_witness_no_dispatch :
    boundary (at100 []) = .proceeds (at100 [])
    ∧ boundary { v130 with skip := true } = .proceeds { v130 with skip := true }
    ∧ boundary { v130 with dispatched := true } = .proceeds { v130 with dispatched := true }
    ∧ boundary { v130 with cfg := { defaultConfig with irqMode := .never } }
        = .proceeds { v130 with cfg := { defaultConfig with irqMode := .never } } := by decide
/-- For `BoundaryPolicy`: a message waits under each mode that may dispatch it, and with `ia` 0. -/
theorem test_witness_dispatch_modes :
    v130.dispatched = false ∧ v130.cfg.irqMode = .eager
    ∧ ({ v130 with cfg := defaultConfig } : State).cfg.irqMode = .anyBoundary
    ∧ ({ v130 with ia := 0 } : State).ia = 0 ∧ ({ v130 with ia := 0 } : State).queue = [0x0005] := by decide
/-- For `OneDispatchPerBoundary`. -/
theorem test_witness_one_dispatch : boundary v130 = .dispatched (dispatchHere v130) := by decide
/-- For `StopIdiomIsAFixedPoint` and `StopIdiomIsSafe`, also at the top of memory. -/
theorem test_witness_stop_idiom :
    (let s := at100 [0x85C3]
     memRead s s.pc = 0x85C3 ∧ s.skip = false ∧ s.queue = [] ∧ s.cfg.literal = .minus20)
    ∧ let s := load { State.reset with pc := 0xFFFF } 0xFFFF [0x85C3]
      memRead s s.pc = 0x85C3 ∧ s.skip = false ∧ s.queue = [] ∧ s.cfg.literal = .minus20 := by decide
/-- For `StepRunsDecodedInstr` and the second case of `StepOutcomes`. -/
theorem test_witness_step :
    boundary (at100 [0x618C]) = .proceeds (at100 [0x618C])
    ∧ decode (memRead (at100 [0x618C]) 0x0100) = .instr (.ife .pop .pop) := by decide
/-- For `StepOutcomes`: a dispatch, and a refused step. -/
theorem test_witness_step_outcomes :
    boundary v130 = .dispatched (dispatchHere v130) ∧ boundary State.reset = .proceeds State.reset
    ∧ decode (memRead State.reset State.reset.pc) = .unassigned 0 := by decide
/-- V130 by the host's `step`: the dispatch and the handler's first instruction, here `SET A, 3`, in one call. -/
theorem test_host_step_under_eager :
    (match hostApply (load v130 0x1000 [0x8C01]) .step with
      | .next t => (t.pc, t.reg .a, t.sp, t.dispatched)
      | _ => (0, 0, 0, true)) = (0x1001, 3, 0xFFFE, false) := by decide
/-- V130 by the environment's move, under `ANY_BOUNDARY`; no second one at the boundary. -/
theorem test_environment_dispatch :
    let s : State := { v130 with cfg := defaultConfig }
    hostApply s .dispatch = .next (dispatchHere s)
    ∧ hostApply (dispatchHere s) .dispatch = .next (dispatchHere s)
    ∧ hostApply { v130 with skip := true } .dispatch = .next { v130 with skip := true } :=
  ⟨rfl, rfl, rfl⟩
/-- For `HostStepRunsOneInstruction`: both clauses, from the state itself and from the one after a dispatch. -/
theorem test_witness_host_step :
    decode (memRead (at100 [0x618C]) 0x0100) = .instr (.ife .pop .pop)
    ∧ decode (memRead State.reset State.reset.pc) = .unassigned 0
    ∧ (v130.cfg.irqMode = .eager ∧ v130.queue ≠ [] ∧ v130.skip = false ∧ v130.dispatched = false)
    ∧ decode (memRead (dispatch v130) (dispatch v130).pc) = .unassigned 0
    ∧ decode (memRead (dispatch (load v130 0x1000 [0x8C01])) 0x1000) = .instr (.set (.reg .a) (.lit 0x23)) := by decide
/-- For `StepKeepsInv` and `HostKeepsInv`: a state with the invariant, a hook and an event, that takes each step. -/
theorem test_witness_invariant :
    let s : State := { watched (at100 [0x7C10, 0x2000]) with trace := [⟨1, 5, .write⟩], dispatched := true }
    s.Inv ∧ (∃ t, step s = .next t) ∧ (∃ t, hostApply s .step = .next t)
      ∧ ∃ t, hostApply s (.registerHook 0 5 2) = .next t := by
  refine ⟨?_, ⟨_, rfl⟩, ⟨_, rfl⟩, _, rfl⟩
  unfold State.Inv TraceFromHooks
  decide
/-- For `LoadStoresTheImage`: an image that wraps, an index of it, and an address outside it. -/
theorem test_witness_load :
    [1, 2].length ≤ 65536 ∧ 1 < [1, 2].length ∧ (∀ k, k < 2 → (5 : Word) ≠ 0xFFFF + BitVec.ofNat 16 k)
    ∧ memRead (load State.reset 0xFFFF [1, 2]) 0 = 2 ∧ memRead (load State.reset 0xFFFF [1, 2]) 5 = 0 := by decide

end Sys2Proof.Tests
end

section
/-! SUPPORT. What one transition can be (40_execution_cycle.md R110, R111; 60_exceptions.md R248). -/

namespace Sys2Proof.Machine

/-- An instruction step answers a state only for a word that decodes, and then with the handler's answer. -/
theorem stepInstrWith_next {e : Encoding} {s t : State} (h : stepInstrWith e s = .next t) :
    ∃ i, decodeWith e (fetchedWord s) = .instr i ∧ exec i (afterFetch s) = .next t := by
  unfold stepInstrWith at h
  split at h
  case h_1 i hi => exact ⟨i, hi, h⟩
  case h_2 => cases h

/-- A transition is a dispatch or one instruction, in both cases perhaps after using up a free choice. -/
theorem step_cases {s t : State} (h : step s = .next t) :
    (dispatchReady s = true ∧ ∃ n, t = dispatchHere { s with fresh := n })
    ∨ ∃ n i, decode (fetchedWord s) = .instr i ∧ exec i (afterFetch { s with fresh := n }) = .next t := by
  unfold step stepWith at h
  rcases boundary_cases s with ⟨n, hb⟩ | ⟨hr, n, hb⟩
  · rw [hb] at h
    obtain ⟨i, hi, hx⟩ := stepInstrWith_next h
    exact .inr ⟨n, i, hi, hx⟩
  · rw [hb] at h
    cases h
    exact .inl ⟨hr, n, rfl⟩

end Sys2Proof.Machine
end

section
/-! SUPPORT. The hook registry and the configuration are fixed while the machine runs (00_scope.md R7, 10_state.md
R29, 20_memory.md R59): each operation keeps them, so each handler and each transition does. -/

namespace Sys2Proof.Machine

/-- `t` has the hook registry and the configuration of `s`. -/
def KeepsSetup (s t : State) : Prop := t.hooks = s.hooks ∧ t.cfg = s.cfg

theorem KeepsSetup.trans {s t u : State} (h : KeepsSetup s t) (k : KeepsSetup t u) : KeepsSetup s u :=
  ⟨k.1.trans h.1, k.2.trans h.2⟩

/-- Setting the skip flag, with which every handler ends. -/
theorem KeepsSetup.setSkip {s t : State} (h : KeepsSetup s t) (v : Bool) : KeepsSetup s (t.setSkip v) := h

/-! The shared operations. -/

theorem resolveLoc_keepsSetup (o : Operand) (s : State) : KeepsSetup s (resolveLoc o s).2 := by
  obtain ⟨p, q, e⟩ := resolveLoc_moves o s
  rw [e]
  exact ⟨rfl, rfl⟩

theorem resolveValue_keepsSetup (o : Operand) (s : State) : KeepsSetup s (resolveValue o s).2 := by
  obtain ⟨p, q, n, e⟩ := resolveValue_moves o s
  rw [e]
  exact ⟨rfl, rfl⟩

theorem writeLoc_keepsSetup (s : State) (l : Loc) (v : Word) : KeepsSetup s (writeLoc s l v) := by
  obtain ⟨-, -, hooks, cfg, -⟩ := writeLoc_keeps s l v
  exact ⟨hooks, cfg⟩

theorem exAndDest_keepsSetup (s : State) (l : Loc) (q : AluResult) : KeepsSetup s (exAndDest s l q) := by
  rcases exAndDest_cases s l q with ⟨-, e⟩ | ⟨-, e⟩ <;> rw [e]
  · exact writeLoc_keepsSetup { s with ex := q.e.getD s.ex } l q.r
  · exact writeLoc_keepsSetup s l q.r

/-- The skip guard: it is enough that the effect it guards keeps them. -/
theorem skipGuard_keepsSetup {s : State} {effect : State → State} (h : KeepsSetup s (effect s)) :
    KeepsSetup s (skipGuard s effect) := by
  rcases skipGuard_cases s effect with ⟨-, e⟩ | ⟨-, e⟩ <;> rw [e]
  · exact ⟨rfl, rfl⟩
  · exact h

theorem raiseInterrupt_keepsSetup (s : State) (m : Word) : KeepsSetup s (raiseInterrupt s m) := by
  rcases raiseInterrupt_cases s m with ⟨-, e⟩ | ⟨-, e⟩ <;> rw [e] <;> exact ⟨rfl, rfl⟩

theorem zeroQueryRegisters_keepsSetup (s : State) : KeepsSetup s (zeroQueryRegisters s) := by
  unfold zeroQueryRegisters
  split <;> exact ⟨rfl, rfl⟩

theorem dispatchHere_keepsSetup (s : State) : KeepsSetup s (dispatchHere s) := by
  unfold dispatchHere
  rcases dispatch_cases s with ⟨-, e⟩ | ⟨m, rest, -, -, e⟩ | ⟨m, rest, -, -, e⟩ <;> rw [e] <;> exact ⟨rfl, rfl⟩

/-! The handlers. -/

theorem readModifyWrite_keepsSetup (f : Word → Word → AluResult) (b a : Operand) (s : State) :
    KeepsSetup s (readModifyWrite f b a s) :=
  ((resolveLoc_keepsSetup b s).trans (resolveValue_keepsSetup a _)).trans
    (skipGuard_keepsSetup ((exAndDest_keepsSetup _ _ _).setSkip false))

theorem setPath_keepsSetup (b a : Operand) (s : State) : KeepsSetup s (setPath b a s) :=
  (((resolveLoc_keepsSetup b s).trans (resolveValue_keepsSetup a _)).trans
    (writeLoc_keepsSetup _ _ _)).setSkip false

theorem conditional_keepsSetup (cond : Word → Word → Bool) (b a : Operand) (s : State) :
    KeepsSetup s (conditional cond b a s) :=
  ((resolveValue_keepsSetup b s).trans (resolveValue_keepsSetup a _)).trans (skipGuard_keepsSetup ⟨rfl, rfl⟩)

/-- An instruction that resolves one value and then works behind the skip guard. -/
theorem guardedValue_keepsSetup (a : Operand) (s : State) {effect : State → State}
    (h : ∀ t, KeepsSetup t (effect t)) : KeepsSetup s (skipGuard (resolveValue a s).2 effect) :=
  (resolveValue_keepsSetup a s).trans (skipGuard_keepsSetup (h _))

/-- Every instruction completes and keeps the hook registry and the configuration. -/
theorem exec_keepsSetup (i : Instr) (s : State) : ∃ t, exec i s = .next t ∧ KeepsSetup s t := by
  cases i with
  | set b a => exact ⟨_, rfl, setPath_keepsSetup b a s⟩
  | ias a => exact ⟨_, rfl, setPath_keepsSetup .ia a s⟩
  | add b a | sub b a | mul b a | div b a | mod b a | shl b a | shr b a | and b a | bor b a | xor b a =>
    exact ⟨_, rfl, readModifyWrite_keepsSetup _ b a s⟩
  | ife b a | ifn b a | ifg b a | ifb b a => exact ⟨_, rfl, conditional_keepsSetup _ b a s⟩
  | jsr a => exact ⟨_, rfl, guardedValue_keepsSetup a s fun _ => ⟨rfl, rfl⟩⟩
  | int a => exact ⟨_, rfl, guardedValue_keepsSetup a s fun t => (raiseInterrupt_keepsSetup t _).setSkip false⟩
  | hwq a => exact ⟨_, rfl, guardedValue_keepsSetup a s fun t => (zeroQueryRegisters_keepsSetup t).setSkip false⟩
  | hwi a => exact ⟨_, rfl, guardedValue_keepsSetup a s fun _ => ⟨rfl, rfl⟩⟩
  | iag a =>
    exact ⟨_, rfl, ((resolveLoc_keepsSetup a s).trans (writeLoc_keepsSetup _ _ _)).setSkip false⟩
  | hwn a =>
    exact ⟨_, rfl, (resolveLoc_keepsSetup a s).trans
      (skipGuard_keepsSetup ((writeLoc_keepsSetup _ _ _).setSkip false))⟩

/-- Settles O40: a transition is a dispatch or, after the fetch, one handler; each keeps both fields. -/
theorem stepKeepsHooksAndConfiguration : Obligations.StepKeepsHooksAndConfiguration := by
  intro s t h
  rcases step_cases h with ⟨-, n, rfl⟩ | ⟨n, i, -, hx⟩
  · exact dispatchHere_keepsSetup { s with fresh := n }
  · obtain ⟨u, hu, keeps⟩ := exec_keepsSetup i (afterFetch { s with fresh := n })
    obtain rfl : u = t := Host.Outcome.next.inj (hu.symm.trans hx)
    exact keeps

end Sys2Proof.Machine
end

section
/-! SUPPORT. The operand table in normal mode and the operands' words in skip mode: what the resolver answers, in the
closed forms of Safety.lean (30_encoding.md R83; 40_execution_cycle.md R116 to R119). -/

namespace Sys2Proof.Machine

/-! Normal mode. -/

theorem afterOperand_push (s : State) : afterOperand .push s = s.setSp (s.sp - 1) := by
  rw [← add_push_shift]
  simp [afterOperand, Operand.nextWords, Operand.spShift, State.setSp]

theorem resolveLocNormal_eq (o : Operand) (s : State) :
    resolveLocNormal o s = (operandLoc o s, afterOperand o s) := by
  cases o with
  | push => rw [afterOperand_push]; rfl
  | _ =>
    simp [resolveLocNormal, operandLoc, operandCell, afterOperand, Operand.nextWords, Operand.spShift, nextWord,
      State.setPc, State.setSp]

theorem resolveValueNormal_eq (o : Operand) (s : State) :
    resolveValueNormal o s = (operandValue o s, afterOperand o s) := by
  cases o with
  | push => rw [afterOperand_push]; rfl
  | _ =>
    simp [resolveValueNormal, operandValue, operandCell, afterOperand, Operand.nextWords, Operand.spShift, nextWord,
      memRead, State.setPc, State.setSp]

theorem resolveLoc_of_not_skip (o : Operand) {s : State} (h : s.skip = false) :
    resolveLoc o s = (operandLoc o s, afterOperand o s) :=
  (resolveLoc_normal o h).trans (resolveLocNormal_eq o s)

theorem resolveValue_of_not_skip (o : Operand) {s : State} (h : s.skip = false) :
    resolveValue o s = (operandValue o s, afterOperand o s) :=
  (resolveValue_normal o h).trans (resolveValueNormal_eq o s)

/-- The operand that names a special register. -/
def Spc.operand : Spc → Operand
  | .sp => .sp
  | .pc => .pc
  | .ex => .ex
  | .ia => .ia

theorem operandLoc_eq_reg {o : Operand} {s : State} {k : Reg} : operandLoc o s = .reg k ↔ o = .reg k := by
  cases o <;> simp [operandLoc, operandCell]

theorem operandLoc_eq_spc {o : Operand} {s : State} {k : Spc} : operandLoc o s = .spc k ↔ o = k.operand := by
  cases o <;> cases k <;> simp [operandLoc, operandCell, Spc.operand]

theorem operandLoc_eq_mem {o : Operand} {s : State} {x : Word} :
    operandLoc o s = .mem x ↔ operandCell o s = some x := by
  cases o <;> simp [operandLoc, operandCell]

/-- The state after all operands of an instruction are resolved in normal mode, in their order (R127, R128). -/
def afterInstrOperands (i : Instr) (s : State) : State := i.operands.foldl (fun m o => afterOperand o m) s

theorem pop_or_push_of_spShift_ne {o : Operand} (h : o.spShift ≠ 0) : o = .pop ∨ o = .push := by
  cases o with
  | pop => exact .inl rfl
  | push => exact .inr rfl
  | _ => exact absurd rfl h

/-- Resolving operands one after the other moves `pc` past their words, and `sp` only if one is POP or PUSH. -/
theorem foldl_afterOperand (os : List Operand) (s : State) :
    ∃ q, os.foldl (fun m o => afterOperand o m) s
        = { s with pc := s.pc + BitVec.ofNat 16 (os.map Operand.nextWords).sum, sp := q }
      ∧ (q ≠ s.sp → .pop ∈ os ∨ .push ∈ os) := by
  induction os generalizing s with
  | nil => exact ⟨s.sp, by simp, fun h => absurd rfl h⟩
  | cons o rest ih =>
    obtain ⟨q, hstate, hq⟩ := ih (afterOperand o s)
    refine ⟨q, ?_, fun hne => ?_⟩
    · rw [List.foldl_cons, hstate]
      simp [afterOperand, BitVec.ofNat_add, BitVec.add_assoc]
    · by_cases hrest : q = (afterOperand o s).sp
      · have hshift : o.spShift ≠ 0 := fun h0 => hne (by simp [hrest, afterOperand, h0])
        rcases pop_or_push_of_spShift_ne hshift with rfl | rfl <;> simp
      · exact (hq hrest).imp (List.mem_cons_of_mem o) (List.mem_cons_of_mem o)

theorem nextWords_eq_sum (i : Instr) : i.nextWords = (i.operands.map Operand.nextWords).sum := by
  cases i <;> rfl

/-- With all its operands resolved, an instruction has moved `pc` past its words, and `sp` only by POP or PUSH. -/
theorem afterInstrOperands_eq (i : Instr) (s : State) :
    ∃ q, afterInstrOperands i s = { s with pc := s.pc + BitVec.ofNat 16 i.nextWords, sp := q }
      ∧ (q ≠ s.sp → .pop ∈ i.operands ∨ .push ∈ i.operands) :=
  nextWords_eq_sum i ▸ foldl_afterOperand i.operands s

/-! Skip mode. -/

theorem resolveValue_of_skip (o : Operand) {s : State} (h : s.skip = true) :
    resolveValue o s = (Config.skipModeWord s.fresh,
      { s with pc := s.pc + BitVec.ofNat 16 o.nextWords, fresh := s.fresh + 1 }) := by
  rw [resolveValue_skip o h, consumeOnly_eq]
  rfl

theorem resolveLoc_of_skip (o : Operand) {s : State} (h : s.skip = true) :
    resolveLoc o s = (.discard, { s with pc := s.pc + BitVec.ofNat 16 o.nextWords }) := by
  rw [resolveLoc_skip o h, consumeOnly_eq]

end Sys2Proof.Machine
end

section
/-! SUPPORT. The handler template in each mode. Unskipped, a handler that writes a destination ends as `EndsWriting`
says (40_execution_cycle.md R126; 41_assign_arith.md R150, R151, R162). -/

namespace Sys2Proof.Machine

theorem skipGuard_of_skip {s : State} (h : s.skip = true) (effect : State → State) :
    skipGuard s effect = s.setSkip false := if_pos h

theorem skipGuard_of_not_skip {s : State} (h : s.skip = false) (effect : State → State) :
    skipGuard s effect = effect s := if_neg (by simp [h])

theorem exAfter_of_ne {l : Loc} (h : l ≠ .spc .ex) (order : ExDestOrder) (r : Word) (e : Option Word) (old : Word) :
    exAfter order l r e old = e.getD old := if_neg h

/-- Without an `ex` write the order does not matter: `ex` changes only as the destination. -/
theorem exAfter_none (order : ExDestOrder) (l : Loc) (r old : Word) :
    exAfter order l r none old = if l = .spc .ex then r else old := by
  cases order <;> rfl

/-- The postcondition of one destination write, by the kind of its locator. -/
theorem endsWriting_writeLoc (m : State) (l : Loc) (r : Word) :
    EndsWriting m ((writeLoc m l r).setSkip false) l r none := by
  unfold EndsWriting KeepsInterruptsAndSetup
  rw [exAfter_none]
  cases l with
  | reg k => simp [writeLoc, memRead, @eq_comm Reg k]
  | mem addr => simp [writeLoc, memWrite_eq, memRead, State.reg, @eq_comm Word addr]
  | spc k => cases k <;> simp [writeLoc, memRead]
  | discard => simp [writeLoc, memRead]

/-- The postcondition of the destination write and the `ex` write in the configured order (R162): the `ex` write
decides `ex` unless the destination is `EX` and is written after it. -/
theorem endsWriting_exAndDest (m : State) (l : Loc) (q : AluResult) :
    EndsWriting m ((exAndDest m l q).setSkip false) l q.r q.e := by
  rcases exAndDest_cases m l q with ⟨order, hstate⟩ | ⟨order, hstate⟩ <;> rw [hstate]
  · obtain ⟨hreg, hpc, hsp, hia, hex, hrest⟩ := endsWriting_writeLoc { m with ex := q.e.getD m.ex } l q.r
    refine ⟨hreg, hpc, hsp, hia, hex.trans ?_, hrest⟩
    simp [exAfter, order]
  · obtain ⟨hreg, hpc, hsp, hia, hex, hrest⟩ := endsWriting_writeLoc m l q.r
    refine ⟨hreg, hpc, hsp, hia, ?_, hrest⟩
    have hold : (writeLoc m l q.r).ex = exAfter m.cfg.exDestOrder l q.r none m.ex := hex
    cases q.e <;> simp [hold, exAfter, order]

/-! Unskipped. -/

theorem readModifyWrite_endsWriting (f : Word → Word → AluResult) (b a : Operand) {s : State}
    (h : s.skip = false) :
    let q := f (resolveOnce b (afterOperand b s)) (sourceValue b a s)
    EndsWriting (afterOperands b a s) (readModifyWrite f b a s) (operandLoc b s) q.r q.e := by
  have hb : (afterOperand b s).skip = false := h
  have hab : (afterOperand a (afterOperand b s)).skip = false := h
  simp only [readModifyWrite, resolveLoc_of_not_skip b h, resolveValue_of_not_skip a hb, skipGuard_of_not_skip hab]
  exact endsWriting_exAndDest _ _ _

theorem setPath_endsWriting (b a : Operand) {s : State} (h : s.skip = false) :
    EndsWriting (afterOperands b a s) (setPath b a s) (operandLoc b s) (sourceValue b a s) none := by
  have hb : (afterOperand b s).skip = false := h
  simp only [setPath, resolveLoc_of_not_skip b h, resolveValue_of_not_skip a hb]
  exact endsWriting_writeLoc _ _ _

theorem conditional_of_not_skip (cond : Word → Word → Bool) (b a : Operand) {s : State} (h : s.skip = false) :
    conditional cond b a s = (afterOperands b a s).setSkip (!cond (operandValue b s) (sourceValue b a s)) := by
  have hb : (afterOperand b s).skip = false := h
  have hab : (afterOperand a (afterOperand b s)).skip = false := h
  simp only [conditional, resolveValue_of_not_skip b h, resolveValue_of_not_skip a hb, skipGuard_of_not_skip hab]
  rfl

/-- An unskipped instruction that resolves one value and then works behind the skip guard. -/
theorem guardedValue_of_not_skip (a : Operand) {s : State} (h : s.skip = false) (effect : State → State) :
    skipGuard (resolveValue a s).2 effect = effect (afterOperand a s) := by
  rw [resolveValue_of_not_skip a h]
  exact skipGuard_of_not_skip (s := afterOperand a s) h effect

/-! Skipped. -/

/-- A skipped instruction `i` ends in `t`: `pc` is past its words, `skip` is clear, and beside these only `discard`
and the model's own `fresh` may differ, `discard` only if `i` is one of the three without a skip guard (R134). -/
def EndsSkipped (i : Instr) (s t : State) : Prop :=
  ∃ d n, t = { s with pc := s.pc + BitVec.ofNat 16 i.nextWords, skip := false, discard := d, fresh := n }
    ∧ (d ≠ s.discard → (∃ b a, i = .set b a) ∨ (∃ a, i = .iag a) ∨ ∃ a, i = .ias a)

theorem readModifyWrite_of_skip (f : Word → Word → AluResult) (b a : Operand) {s : State} (h : s.skip = true) :
    readModifyWrite f b a s
      = { s with pc := s.pc + BitVec.ofNat 16 (b.nextWords + a.nextWords), skip := false, fresh := s.fresh + 1 } := by
  simp [readModifyWrite, resolveLoc_of_skip, resolveValue_of_skip, skipGuard, h, State.setSkip, BitVec.ofNat_add,
    BitVec.add_assoc]

theorem setPath_of_skip (b a : Operand) {s : State} (h : s.skip = true) :
    setPath b a s
      = { s with pc := s.pc + BitVec.ofNat 16 (b.nextWords + a.nextWords), skip := false,
                 discard := Config.skipModeWord s.fresh, fresh := s.fresh + 1 } := by
  simp [setPath, resolveLoc_of_skip, resolveValue_of_skip, writeLoc, h, State.setSkip, State.setDiscard,
    BitVec.ofNat_add, BitVec.add_assoc]

theorem conditional_of_skip (cond : Word → Word → Bool) (b a : Operand) {s : State} (h : s.skip = true) :
    conditional cond b a s
      = { s with pc := s.pc + BitVec.ofNat 16 (b.nextWords + a.nextWords), skip := false, fresh := s.fresh + 2 } := by
  simp [conditional, resolveValue_of_skip, skipGuard, h, State.setSkip, BitVec.ofNat_add, BitVec.add_assoc]

/-- A skipped instruction that resolves one value and then works behind the skip guard. -/
theorem guardedValue_of_skip (a : Operand) {s : State} (h : s.skip = true) (effect : State → State) :
    skipGuard (resolveValue a s).2 effect
      = { s with pc := s.pc + BitVec.ofNat 16 a.nextWords, skip := false, fresh := s.fresh + 1 } := by
  simp [resolveValue_of_skip, skipGuard, h, State.setSkip]

/-- Every skipped instruction only consumes its words and clears the flag. -/
theorem exec_endsSkipped (i : Instr) {s : State} (h : s.skip = true) :
    ∃ t, exec i s = .next t ∧ EndsSkipped i s t := by
  cases i with
  | set b a => exact ⟨_, rfl, _, _, setPath_of_skip b a h, fun _ => .inl ⟨b, a, rfl⟩⟩
  | ias a =>
    refine ⟨_, rfl, Config.skipModeWord s.fresh, s.fresh + 1, ?_, fun _ => .inr (.inr ⟨a, rfl⟩)⟩
    rw [setPath_of_skip .ia a h]
    simp [Operand.nextWords, Instr.nextWords]
  | iag a =>
    refine ⟨_, rfl, s.ia, s.fresh, ?_, fun _ => .inr (.inl ⟨a, rfl⟩)⟩
    rw [resolveLoc_of_skip a h]
    rfl
  | hwn a =>
    refine ⟨_, rfl, s.discard, s.fresh, ?_, fun hd => absurd rfl hd⟩
    rw [resolveLoc_of_skip a h]
    exact skipGuard_of_skip (s := { s with pc := s.pc + BitVec.ofNat 16 a.nextWords }) h _
  | add b a | sub b a | mul b a | div b a | mod b a | shl b a | shr b a | and b a | bor b a | xor b a =>
    exact ⟨_, rfl, _, _, readModifyWrite_of_skip _ b a h, fun hd => absurd rfl hd⟩
  | ife b a | ifn b a | ifg b a | ifb b a =>
    exact ⟨_, rfl, _, _, conditional_of_skip _ b a h, fun hd => absurd rfl hd⟩
  | jsr a | int a | hwq a | hwi a =>
    exact ⟨_, rfl, _, _, guardedValue_of_skip a h _, fun hd => absurd rfl hd⟩

end Sys2Proof.Machine
end

section
/-! SUPPORT. The frame of every instruction (10_state.md R23 to R27, R32; 20_memory.md R53, R56). An instruction ends
in one of four ways: skipped, with a destination written, with the call of `JSR`, or with at most general registers,
the queue and `skip` changed; each has its frame. -/

namespace Sys2Proof.Machine

/-- The cells the instruction may store to: the one its destination names, or the one `JSR` pushes to. -/
def StoresTo (i : Instr) (s : State) (x : Word) : Prop :=
  (∃ o, i.destination = some o ∧ operandCell o s = some x)
  ∨ (∃ a, i = .jsr a ∧ x = (afterOperand a s).sp - 1)

/-- The clauses of `FrameOfEveryInstruction` for one instruction between two states, by field. -/
structure InstrFrame (i : Instr) (s t : State) : Prop where
  reg : ∀ k, t.reg k ≠ s.reg k → i.destination = some (.reg k)
    ∨ ((∃ a, i = .hwq a) ∧ s.cfg.hwqMode = .abcxy ∧ k ∈ [Reg.a, .b, .c, .x, .y])
  ia : t.ia ≠ s.ia → i.destination = some .ia
  ex : t.ex ≠ s.ex → i.destination = some .ex ∨ i.writesEx s.cfg = true
  sp : t.sp ≠ s.sp → i.destination = some .sp ∨ .pop ∈ i.operands ∨ .push ∈ i.operands ∨ ∃ a, i = .jsr a
  queue : t.queue ≠ s.queue → s.ia ≠ 0 ∧ ∃ a, i = .int a
  mem : ∀ x, memRead t x ≠ memRead s x → StoresTo i s x
  trace : t.trace ≠ s.trace → ∃ x, StoresTo i s x ∧ t.trace = s.trace ++ eventsAt s.hooks x
  discard : t.discard ≠ s.discard →
    (s.skip = false ∧ ∃ o, i.destination = some o ∧ operandLoc o s = .discard)
    ∨ (s.skip = true ∧ ((∃ b a, i = .set b a) ∨ (∃ a, i = .iag a) ∨ ∃ a, i = .ias a))
  pc : t.pc ≠ s.pc + BitVec.ofNat 16 i.nextWords → s.skip = false ∧ i.writesPc = true
  skip : t.skip = true → s.skip = false ∧ i.isConditional = true
  skipped : s.skip = true → t = { s with pc := t.pc, skip := t.skip, discard := t.discard, fresh := t.fresh }
  fresh : s.skip = false → t.fresh = s.fresh
  setup : t.hooks = s.hooks ∧ t.cfg = s.cfg ∧ t.dispatched = s.dispatched

theorem writesPc_of_destination {i : Instr} (h : i.destination = some .pc) : i.writesPc = true := by
  unfold Instr.writesPc
  split
  · rfl
  · exact decide_eq_true h

/-- The frame of a skipped instruction. -/
theorem EndsSkipped.instrFrame {i : Instr} {s t : State} (hs : s.skip = true) (h : EndsSkipped i s t) :
    InstrFrame i s t := by
  obtain ⟨d, n, rfl, hd⟩ := h
  exact
    { reg := fun k hk => absurd rfl hk
      ia := fun h => absurd rfl h
      ex := fun h => absurd rfl h
      sp := fun h => absurd rfl h
      queue := fun h => absurd rfl h
      mem := fun x h => absurd rfl h
      trace := fun h => absurd rfl h
      discard := fun h => .inr ⟨hs, hd h⟩
      pc := fun h => absurd rfl h
      skip := nofun
      skipped := fun _ => rfl
      fresh := fun h => by simp [hs] at h
      setup := ⟨rfl, rfl, rfl⟩ }

/-- The frame of an unskipped instruction that writes its destination. -/
theorem EndsWriting.instrFrame {i : Instr} {s t : State} {o : Operand} {r : Word} {e : Option Word}
    (hs : s.skip = false) (ho : i.destination = some o) (he : e ≠ none → i.writesEx s.cfg = true)
    (h : EndsWriting (afterInstrOperands i s) t (operandLoc o s) r e) : InstrFrame i s t := by
  obtain ⟨q, hm, hq⟩ := afterInstrOperands_eq i s
  rw [hm] at h
  obtain ⟨hreg, hpc, hsp, hia, hex, hmem, htrace, hkept, hdiscard, hskip, hqueue, hhooks, hcfg, hdisp, hfresh⟩ := h
  have names (k : Spc) (hl : operandLoc o s = .spc k) : i.destination = some k.operand :=
    ho.trans (congrArg some (operandLoc_eq_spc.mp hl))
  exact
    { reg := fun k hk => by
        rw [hreg k] at hk
        exact .inl (ho.trans (congrArg some (operandLoc_eq_reg.mp (ite_ne_right_iff.mp hk).1)))
      ia := fun h => by
        rw [hia] at h
        exact names .ia (ite_ne_right_iff.mp h).1
      ex := fun h => by
        by_cases hl : operandLoc o s = .spc .ex
        · exact .inl (names .ex hl)
        · rw [hex, exAfter_of_ne hl] at h
          exact .inr (he fun hnone => h (by rw [hnone]; rfl))
      sp := fun h => by
        by_cases hl : operandLoc o s = .spc .sp
        · exact .inl (names .sp hl)
        · rw [hsp, if_neg hl] at h
          exact .inr ((hq h).imp_right .inl)
      queue := fun h => absurd hqueue h
      mem := fun x h => by
        rw [hmem x] at h
        exact .inl ⟨o, ho, operandLoc_eq_mem.mp (ite_ne_right_iff.mp h).1⟩
      trace := fun h => by
        by_cases hl : ∃ x, operandLoc o s = .mem x
        · obtain ⟨x, hl⟩ := hl
          exact ⟨x, .inl ⟨o, ho, operandLoc_eq_mem.mp hl⟩, htrace x hl⟩
        · exact absurd (hkept (not_exists.mp hl)).1 h
      discard := fun h => by
        rw [hdiscard] at h
        exact .inl ⟨hs, o, ho, (ite_ne_right_iff.mp h).1⟩
      pc := fun h => by
        rw [hpc] at h
        exact ⟨hs, writesPc_of_destination (names .pc (ite_ne_right_iff.mp h).1)⟩
      skip := fun h => by simp [hskip] at h
      skipped := fun h => by simp [hs] at h
      fresh := fun _ => hfresh
      setup := ⟨hhooks, hcfg, hdisp⟩ }

/-- The frame of an unskipped `JSR`, whatever its target. -/
theorem instrFrame_jsr (a : Operand) {s : State} (hs : s.skip = false) (ret target : Word) :
    InstrFrame (.jsr a) s (((pushWord (afterOperand a s) ret).setPc target).setSkip false) where
  reg := fun k hk => absurd rfl hk
  ia := fun h => absurd rfl h
  ex := fun h => absurd rfl h
  sp := fun _ => .inr (.inr (.inr ⟨a, rfl⟩))
  queue := fun h => absurd rfl h
  mem := fun x h => by
    have hread : memRead (((pushWord (afterOperand a s) ret).setPc target).setSkip false) x
        = if x = (afterOperand a s).sp - 1 then ret else memRead s x := Memory.read_write _ _ _ _
    rw [hread] at h
    exact .inr ⟨a, rfl, (ite_ne_right_iff.mp h).1⟩
  trace := fun _ => ⟨(afterOperand a s).sp - 1, .inr ⟨a, rfl, rfl⟩, rfl⟩
  discard := fun h => absurd rfl h
  pc := fun _ => ⟨hs, rfl⟩
  skip := nofun
  skipped := fun h => by simp [hs] at h
  fresh := fun _ => rfl
  setup := ⟨rfl, rfl, rfl⟩

/-- The frame of an unskipped instruction that, its operands resolved, changes at most general registers (`HWQ`),
the queue (`INT`) and `skip` (a conditional). -/
theorem instrFrame_of_regs_queue_skip {i : Instr} {s : State} {g : Regs} {queue : List Word} {skip : Bool}
    (hs : s.skip = false)
    (hg : ∀ k, g.get k ≠ s.reg k →
      (∃ a, i = .hwq a) ∧ s.cfg.hwqMode = .abcxy ∧ k ∈ [Reg.a, .b, .c, .x, .y])
    (hqueue : queue ≠ s.queue → s.ia ≠ 0 ∧ ∃ a, i = .int a)
    (hskip : skip = true → i.isConditional = true) :
    InstrFrame i s { afterInstrOperands i s with regs := g, queue := queue, skip := skip } := by
  obtain ⟨q, hm, hq⟩ := afterInstrOperands_eq i s
  rw [hm]
  exact
    { reg := fun k hk => .inr (hg k hk)
      ia := fun h => absurd rfl h
      ex := fun h => absurd rfl h
      sp := fun h => .inr ((hq h).imp_right .inl)
      queue := hqueue
      mem := fun x h => absurd rfl h
      trace := fun h => absurd rfl h
      discard := fun h => absurd rfl h
      pc := fun h => absurd rfl h
      skip := fun h => ⟨hs, hskip h⟩
      skipped := fun h => by simp [hs] at h
      fresh := fun _ => rfl
      setup := ⟨rfl, rfl, rfl⟩ }

/-- The frame of an unskipped instruction that only resolves its operands and sets `skip`. -/
theorem instrFrame_setSkip {i : Instr} {s : State} {skip : Bool} (hs : s.skip = false)
    (hskip : skip = true → i.isConditional = true) : InstrFrame i s ((afterInstrOperands i s).setSkip skip) := by
  have hframe := instrFrame_of_regs_queue_skip (i := i) (g := s.regs) (queue := s.queue) hs
    (fun _ hk => absurd rfl hk) (fun h => absurd rfl h) hskip
  obtain ⟨q, hm, -⟩ := afterInstrOperands_eq i s
  rw [hm] at hframe ⊢
  exact hframe

/-- The frame of an unskipped `INT`. -/
theorem instrFrame_int (a : Operand) {s : State} (hs : s.skip = false) (message : Word) :
    InstrFrame (.int a) s ((raiseInterrupt (afterOperand a s) message).setSkip false) := by
  rcases raiseInterrupt_cases (afterOperand a s) message with ⟨-, e⟩ | ⟨hia, e⟩ <;> rw [e]
  · exact instrFrame_setSkip (i := .int a) hs nofun
  · exact instrFrame_of_regs_queue_skip (i := .int a) (g := s.regs) hs (fun _ hk => absurd rfl hk)
      (fun _ => ⟨hia, a, rfl⟩) nofun

/-- `HWQ` zeroes A, B, C, X and Y in its one mode, and nothing in the other (R216, D14). -/
theorem zeroQueryRegisters_eq (s : State) :
    ∃ g, zeroQueryRegisters s = { s with regs := g }
      ∧ ∀ k, g.get k ≠ s.reg k → s.cfg.hwqMode = .abcxy ∧ k ∈ [Reg.a, .b, .c, .x, .y] := by
  unfold zeroQueryRegisters
  split
  case h_1 mode =>
    refine ⟨_, rfl, fun k hk => ⟨mode, ?_⟩⟩
    cases k with
    | a | b | c | x | y => simp
    | z | i | j => exact absurd rfl hk
  case h_2 => exact ⟨s.regs, rfl, fun k hk => absurd rfl hk⟩

/-- The frame of an unskipped `HWQ`. -/
theorem instrFrame_hwq (a : Operand) {s : State} (hs : s.skip = false) :
    InstrFrame (.hwq a) s ((zeroQueryRegisters (afterOperand a s)).setSkip false) := by
  obtain ⟨g, hstate, hg⟩ := zeroQueryRegisters_eq (afterOperand a s)
  rw [hstate]
  exact instrFrame_of_regs_queue_skip (i := .hwq a) hs (fun k hk => ⟨⟨a, rfl⟩, hg k hk⟩)
    (fun h => absurd rfl h) nofun

/-- `MOD` writes `ex` only under `ZERO_ON_DIVZERO` (R156). -/
theorem writesEx_mod_of_ne_none {c : Config} {va : Word} (b a : Operand) (h : modExValue c.modEx va ≠ none) :
    (Instr.mod b a).writesEx c = true := by
  refine decide_eq_true ?_
  cases hmode : c.modEx with
  | none => exact absurd (by rw [hmode]; rfl) h
  | zeroOnDivZero => rfl

/-- Every unskipped instruction keeps its frame. -/
theorem exec_instrFrame_of_not_skip (i : Instr) {s : State} (hs : s.skip = false) :
    ∃ t, exec i s = .next t ∧ InstrFrame i s t := by
  cases i with
  | set b a => exact ⟨_, rfl, (setPath_endsWriting b a hs).instrFrame hs rfl fun h => absurd rfl h⟩
  | ias a =>
    have hwrite := setPath_endsWriting .ia a hs
    have hm : afterOperands .ia a s = afterInstrOperands (.ias a) s := by
      simp [afterOperands, afterInstrOperands, afterOperand, Instr.operands, Operand.nextWords, Operand.spShift]
    rw [hm] at hwrite
    exact ⟨_, rfl, hwrite.instrFrame hs rfl fun h => absurd rfl h⟩
  | iag a =>
    refine ⟨_, rfl, ?_⟩
    rw [resolveLoc_of_not_skip a hs]
    exact (endsWriting_writeLoc _ _ _).instrFrame (i := .iag a) hs rfl fun h => absurd rfl h
  | hwn a =>
    refine ⟨_, rfl, ?_⟩
    simp only [resolveLoc_of_not_skip a hs]
    rw [skipGuard_of_not_skip (s := afterOperand a s) hs]
    exact (endsWriting_writeLoc _ _ _).instrFrame (i := .hwn a) hs rfl fun h => absurd rfl h
  | add b a | sub b a | mul b a | div b a | shl b a | shr b a =>
    exact ⟨_, rfl, (readModifyWrite_endsWriting _ b a hs).instrFrame hs rfl fun _ => rfl⟩
  | mod b a =>
    exact ⟨_, rfl, (readModifyWrite_endsWriting _ b a hs).instrFrame hs rfl (writesEx_mod_of_ne_none b a)⟩
  | and b a | bor b a | xor b a =>
    exact ⟨_, rfl, (readModifyWrite_endsWriting _ b a hs).instrFrame hs rfl fun h => absurd rfl h⟩
  | ife b a | ifn b a | ifg b a | ifb b a =>
    exact ⟨_, rfl, conditional_of_not_skip _ b a hs ▸ instrFrame_setSkip hs fun _ => rfl⟩
  | jsr a => exact ⟨_, rfl, guardedValue_of_not_skip a hs _ ▸ instrFrame_jsr a hs _ _⟩
  | int a => exact ⟨_, rfl, guardedValue_of_not_skip a hs _ ▸ instrFrame_int a hs _⟩
  | hwq a => exact ⟨_, rfl, guardedValue_of_not_skip a hs _ ▸ instrFrame_hwq a hs⟩
  | hwi a => exact ⟨_, rfl, guardedValue_of_not_skip a hs _ ▸ instrFrame_setSkip hs nofun⟩

/-- Every instruction completes and keeps its frame, in either mode. -/
theorem exec_instrFrame (i : Instr) (s : State) : ∃ t, exec i s = .next t ∧ InstrFrame i s t := by
  cases hs : s.skip with
  | true => exact (exec_endsSkipped i hs).imp fun _ ht => ht.imp_right (EndsSkipped.instrFrame hs)
  | false => exact exec_instrFrame_of_not_skip i hs

/-- Settles O37: what `exec` answers keeps the frame, whose fields are the statement's clauses. -/
theorem frameOfEveryInstruction : Obligations.FrameOfEveryInstruction := by
  intro i s t h
  obtain ⟨u, hu, frame⟩ := exec_instrFrame i s
  obtain rfl : u = t := Host.Outcome.next.inj (hu.symm.trans h)
  exact ⟨frame.reg, frame.ia, frame.ex, frame.sp, frame.queue, frame.mem, frame.trace, frame.discard, frame.pc,
    frame.skip, frame.skipped, frame.fresh, frame.setup⟩

end Sys2Proof.Machine
end

section
/-! SUPPORT. Memory changes only by writes that notify (20_memory.md R53, R54, R56): every handler and every
transition does to memory and trace what some list of `MemWrite`s does, and the registry stays. That it is such a
list carries both the notification of each change and the model's invariant. -/

namespace Sys2Proof.Machine

/-! Several writes in a row. -/

/-- The memory after writes, each an address and a word, in their order. -/
def Memory.writeAll (m : Memory) (ws : List (Word × Word)) : Memory := ws.foldl (fun m w => m.write w.1 w.2) m

theorem Memory.writeAll_append (m : Memory) (ws vs : List (Word × Word)) :
    m.writeAll (ws ++ vs) = (m.writeAll ws).writeAll vs := List.foldl_append

theorem Memory.wf_writeAll (ws : List (Word × Word)) {m : Memory} (h : m.wf) : (m.writeAll ws).wf := by
  induction ws generalizing m with
  | nil => exact h
  | cons w rest ih => exact ih (Memory.wf_write h w.1 w.2)

/-- A cell that none of the writes names keeps its word. -/
theorem Memory.read_writeAll_other {x : Word} (ws : List (Word × Word)) (m : Memory) (h : ∀ w ∈ ws, w.1 ≠ x) :
    (m.writeAll ws).read x = m.read x := by
  induction ws generalizing m with
  | nil => rfl
  | cons w rest ih =>
    obtain ⟨hw, hrest⟩ := List.forall_mem_cons.mp h
    exact (ih (m.write w.1 w.2) hrest).trans (by simp [Ne.symm hw])

/-- Between `s` and `t` exactly the writes `ws` were made: stored and notified in their order, the registry kept. -/
structure MemoryWrites (ws : List (Word × Word)) (s t : State) : Prop where
  mem : t.mem = s.mem.writeAll ws
  trace : t.trace = s.trace ++ ws.flatMap fun w => eventsAt s.hooks w.1
  hooks : t.hooks = s.hooks

/-- Some writes lead from the memory and the trace of `s` to those of `t`. -/
def NotifiedWrites (s t : State) : Prop := ∃ ws, MemoryWrites ws s t

/-- What writes nothing: memory, trace and registry are the same. -/
theorem NotifiedWrites.of_eq {s t : State} (mem : t.mem = s.mem) (trace : t.trace = s.trace)
    (hooks : t.hooks = s.hooks) : NotifiedWrites s t :=
  ⟨[], mem, by simpa using trace, hooks⟩

theorem NotifiedWrites.trans {s t u : State} (h : NotifiedWrites s t) (k : NotifiedWrites t u) :
    NotifiedWrites s u := by
  obtain ⟨ws, hmem, htrace, hhooks⟩ := h
  obtain ⟨vs, kmem, ktrace, khooks⟩ := k
  refine ⟨ws ++ vs, ?_, ?_, khooks.trans hhooks⟩
  · rw [kmem, hmem, Memory.writeAll_append]
  · rw [ktrace, htrace, hhooks, List.flatMap_append, List.append_assoc]

/-- Setting the skip flag, with which every handler ends. -/
theorem NotifiedWrites.setSkip {s t : State} (h : NotifiedWrites s t) (v : Bool) : NotifiedWrites s (t.setSkip v) :=
  h.trans (.of_eq rfl rfl rfl)

/-! The shared operations. -/

theorem memWrite_notified (s : State) (addr v : Word) : NotifiedWrites s (memWrite s addr v) :=
  ⟨[(addr, v)], rfl, by simp [memWrite_eq], rfl⟩

theorem pushWord_notified (s : State) (v : Word) : NotifiedWrites s (pushWord s v) :=
  ⟨[(s.sp - 1, v)], rfl, by simp [pushWord_eq], rfl⟩

theorem resolveLoc_notified (o : Operand) (s : State) : NotifiedWrites s (resolveLoc o s).2 := by
  obtain ⟨p, q, e⟩ := resolveLoc_moves o s
  rw [e]
  exact .of_eq rfl rfl rfl

theorem resolveValue_notified (o : Operand) (s : State) : NotifiedWrites s (resolveValue o s).2 := by
  obtain ⟨p, q, n, e⟩ := resolveValue_moves o s
  rw [e]
  exact .of_eq rfl rfl rfl

theorem writeLoc_notified (s : State) (l : Loc) (v : Word) : NotifiedWrites s (writeLoc s l v) := by
  rcases writeLoc_mem s l v with ⟨addr, -, e⟩ | ⟨-, mem, trace⟩
  · rw [e]
    exact memWrite_notified s addr v
  · exact .of_eq mem trace (writeLoc_keepsSetup s l v).1

theorem exAndDest_notified (s : State) (l : Loc) (q : AluResult) : NotifiedWrites s (exAndDest s l q) := by
  rcases exAndDest_cases s l q with ⟨-, e⟩ | ⟨-, e⟩ <;> rw [e]
  · exact .trans (t := { s with ex := q.e.getD s.ex }) (.of_eq rfl rfl rfl) (writeLoc_notified _ l q.r)
  · exact (writeLoc_notified s l q.r).trans (.of_eq rfl rfl rfl)

/-- The skip guard: it is enough that the effect it guards makes such writes. -/
theorem skipGuard_notified {s : State} {effect : State → State} (h : NotifiedWrites s (effect s)) :
    NotifiedWrites s (skipGuard s effect) := by
  rcases skipGuard_cases s effect with ⟨-, e⟩ | ⟨-, e⟩ <;> rw [e]
  · exact .of_eq rfl rfl rfl
  · exact h

theorem raiseInterrupt_notified (s : State) (m : Word) : NotifiedWrites s (raiseInterrupt s m) := by
  rcases raiseInterrupt_cases s m with ⟨-, e⟩ | ⟨-, e⟩ <;> rw [e] <;> exact .of_eq rfl rfl rfl

theorem zeroQueryRegisters_notified (s : State) : NotifiedWrites s (zeroQueryRegisters s) := by
  obtain ⟨g, e, -⟩ := zeroQueryRegisters_eq s
  rw [e]
  exact .of_eq rfl rfl rfl

/-- Interrupt entry writes twice: the pushes of `pc` and of A. -/
theorem enterInterrupt_notified (s : State) (m : Word) : NotifiedWrites s (enterInterrupt s m) := by
  rw [enterInterrupt_eq]
  exact ((pushWord_notified s s.pc).trans (pushWord_notified _ (s.reg .a))).trans (.of_eq rfl rfl rfl)

theorem dispatchHere_notified (s : State) : NotifiedWrites s (dispatchHere s) := by
  refine .trans (t := dispatch s) ?_ (.of_eq rfl rfl rfl)
  rcases dispatch_cases s with ⟨-, e⟩ | ⟨m, rest, -, -, e⟩ | ⟨m, rest, -, -, e⟩ <;> rw [e]
  · exact .of_eq rfl rfl rfl
  · exact .of_eq rfl rfl rfl
  · exact .trans (t := { s with queue := rest }) (.of_eq rfl rfl rfl) (enterInterrupt_notified _ m)

/-! The handlers. -/

theorem readModifyWrite_notified (f : Word → Word → AluResult) (b a : Operand) (s : State) :
    NotifiedWrites s (readModifyWrite f b a s) := by
  refine ((resolveLoc_notified b s).trans (resolveValue_notified a _)).trans ?_
  unfold readModifyWrite
  exact skipGuard_notified ((exAndDest_notified _ _ _).setSkip false)

theorem setPath_notified (b a : Operand) (s : State) : NotifiedWrites s (setPath b a s) :=
  (((resolveLoc_notified b s).trans (resolveValue_notified a _)).trans (writeLoc_notified _ _ _)).setSkip false

theorem conditional_notified (cond : Word → Word → Bool) (b a : Operand) (s : State) :
    NotifiedWrites s (conditional cond b a s) := by
  refine ((resolveValue_notified b s).trans (resolveValue_notified a _)).trans ?_
  unfold conditional
  exact skipGuard_notified (.of_eq rfl rfl rfl)

/-- An instruction that resolves one value and then works behind the skip guard. -/
theorem guardedValue_notified (a : Operand) (s : State) {effect : State → State}
    (h : ∀ t, NotifiedWrites t (effect t)) : NotifiedWrites s (skipGuard (resolveValue a s).2 effect) :=
  (resolveValue_notified a s).trans (skipGuard_notified (h _))

/-- Whatever the instruction, memory and trace change by writes that notify. -/
theorem exec_notified (i : Instr) (s : State) : ∃ t, exec i s = .next t ∧ NotifiedWrites s t := by
  cases i with
  | set b a => exact ⟨_, rfl, setPath_notified b a s⟩
  | ias a => exact ⟨_, rfl, setPath_notified .ia a s⟩
  | add b a | sub b a | mul b a | div b a | mod b a | shl b a | shr b a | and b a | bor b a | xor b a =>
    exact ⟨_, rfl, readModifyWrite_notified _ b a s⟩
  | ife b a | ifn b a | ifg b a | ifb b a => exact ⟨_, rfl, conditional_notified _ b a s⟩
  | jsr a =>
    exact ⟨_, rfl, guardedValue_notified a s fun t => (pushWord_notified t t.pc).trans (.of_eq rfl rfl rfl)⟩
  | int a => exact ⟨_, rfl, guardedValue_notified a s fun t => (raiseInterrupt_notified t _).setSkip false⟩
  | hwq a => exact ⟨_, rfl, guardedValue_notified a s fun t => (zeroQueryRegisters_notified t).setSkip false⟩
  | hwi a => exact ⟨_, rfl, guardedValue_notified a s fun _ => .of_eq rfl rfl rfl⟩
  | iag a => exact ⟨_, rfl, ((resolveLoc_notified a s).trans (writeLoc_notified _ _ _)).setSkip false⟩
  | hwn a =>
    exact ⟨_, rfl, (resolveLoc_notified a s).trans
      (skipGuard_notified ((writeLoc_notified _ _ _).setSkip false))⟩

/-- A handler's answer has whatever property some answer of the handler has: there is one answer only. -/
theorem property_of_exec_next {P : State → Prop} {i : Instr} {s t : State} (h : ∃ u, exec i s = .next u ∧ P u)
    (hx : exec i s = .next t) : P t := by
  obtain ⟨u, hu, hP⟩ := h
  exact Host.Outcome.next.inj (hu.symm.trans hx) ▸ hP

/-- A transition, dispatch or instruction, changes memory and trace by writes that notify. -/
theorem step_notified {s t : State} (h : step s = .next t) : NotifiedWrites s t := by
  rcases step_cases h with ⟨-, n, rfl⟩ | ⟨n, i, -, hx⟩
  · exact .trans (t := { s with fresh := n }) (.of_eq rfl rfl rfl) (dispatchHere_notified _)
  · have writes := property_of_exec_next (exec_notified i _) hx
    exact .trans (t := afterFetch { s with fresh := n }) (.of_eq rfl rfl rfl) writes

/-! What such writes leave behind. -/

/-- A cell that reads differently after some writes was written by one of them, whose events stand among theirs. -/
theorem MemoryWrites.events_of_read_ne {ws : List (Word × Word)} {s t : State} (h : MemoryWrites ws s t) {x : Word}
    (hx : memRead t x ≠ memRead s x) :
    ∃ pre post, (ws.flatMap fun w => eventsAt s.hooks w.1) = pre ++ eventsAt s.hooks x ++ post := by
  have written : ∃ w ∈ ws, w.1 = x := by
    by_contra hnone
    refine hx ?_
    rw [memRead, h.mem]
    exact Memory.read_writeAll_other ws s.mem fun w hw e => hnone ⟨w, hw, e⟩
  obtain ⟨w, hw, rfl⟩ := written
  obtain ⟨before, after, rfl⟩ := List.append_of_mem hw
  exact ⟨before.flatMap fun v => eventsAt s.hooks v.1, after.flatMap fun v => eventsAt s.hooks v.1, by simp⟩

/-- The canonical form of memory survives any writes. -/
theorem NotifiedWrites.mem_wf {s t : State} (h : NotifiedWrites s t) (hs : s.mem.wf) : t.mem.wf := by
  obtain ⟨ws, hmem, -, -⟩ := h
  exact hmem ▸ Memory.wf_writeAll ws hs

/-- The events that writes add tell of covering registrations, as the trace before them does (R54). -/
theorem NotifiedWrites.traceFromHooks {s t : State} (h : NotifiedWrites s t) (hs : TraceFromHooks s) :
    TraceFromHooks t := by
  obtain ⟨ws, -, htrace, hhooks⟩ := h
  intro e he
  rw [hhooks]
  rw [htrace] at he
  rcases List.mem_append.mp he with old | new
  · exact hs e old
  · obtain ⟨w, -, hw⟩ := List.mem_flatMap.mp new
    obtain ⟨haddr, registered⟩ := mem_eventsAt hw
    rwa [← haddr] at registered

/-- A dispatch keeps `skip`: whatever it does, it tests the flag and never writes it. -/
theorem dispatchHere_skip (s : State) : (dispatchHere s).skip = s.skip := by
  show (dispatch s).skip = s.skip
  rcases dispatch_cases s with ⟨-, e⟩ | ⟨m, rest, -, -, e⟩ | ⟨m, rest, -, -, e⟩ <;> rw [e]
  rfl

theorem skip_of_dispatchReady {s : State} (h : dispatchReady s = true) : s.skip = false := by
  simp only [dispatchReady, Bool.and_eq_true, Bool.not_eq_true'] at h
  obtain ⟨⟨-, hskip⟩, -⟩ := h
  exact hskip

/-- After a transition no dispatch stands before a pending skip (60_exceptions.md R248): a dispatch is taken only
where no skip is pending, and a fetch clears the mark of the last one. -/
theorem step_skip_of_dispatched {s t : State} (h : step s = .next t) (hd : t.dispatched = true) : t.skip = false := by
  rcases step_cases h with ⟨ready, n, rfl⟩ | ⟨n, i, -, hx⟩
  · exact (dispatchHere_skip { s with fresh := n }).trans (skip_of_dispatchReady ready)
  · obtain ⟨-, -, kept⟩ := (property_of_exec_next (exec_instrFrame i _) hx).setup
    have cleared : t.dispatched = false := kept
    exact absurd (cleared.symm.trans hd) Bool.false_ne_true

/-- Settles O39: what the transition added to the trace are the events of its writes, in their order. -/
theorem memoryChangesAreNotified : Obligations.MemoryChangesAreNotified := by
  intro s t h
  obtain ⟨ws, writes⟩ := step_notified h
  exact ⟨_, writes.trace, fun _ hx => writes.events_of_read_ne hx⟩

/-- Settles O53: the clauses about memory and trace hold of any notified writes, that about `skip` by the kind of the
transition. -/
theorem stepKeepsInv : Obligations.StepKeepsInv := by
  rintro s t ⟨hmem, -, htrace⟩ h
  have writes := step_notified h
  exact ⟨writes.mem_wf hmem, step_skip_of_dispatched h, writes.traceFromHooks htrace⟩

end Sys2Proof.Machine
end

section
/-! SUPPORT. Which registrations a write notifies, whatever value it stores (20_memory.md R53, R54, R55). -/

namespace Sys2Proof.Machine

/-- A registration covers the addresses of its inclusive range (R54). -/
theorem Hook.covers_iff (h : Hook) (addr : Word) : h.covers addr = true ↔ h.lo ≤ addr ∧ addr ≤ h.hi := by
  simp [Hook.covers]

/-- The first registration's event, if it covers the address, stands before those of the others. -/
theorem eventsAt_cons (h : Hook) (hs : List Hook) (addr : Word) :
    eventsAt (h :: hs) addr
      = (if h.lo ≤ addr ∧ addr ≤ h.hi then [{ observer := h.observer, addr := addr, kind := .write }] else [])
        ++ eventsAt hs addr := by
  simp only [eventsAt, List.filter_cons, Hook.covers_iff]
  split <;> rfl

/-- An empty range, `lo > hi`, covers no address (D20). -/
theorem eventsAt_cons_of_empty {h : Hook} (hs : List Hook) (addr : Word) (hlt : h.hi < h.lo) :
    eventsAt (h :: hs) addr = eventsAt hs addr := by
  have outside : ¬(h.lo ≤ addr ∧ addr ≤ h.hi) := fun ⟨hlo, hhi⟩ => absurd hlt (by bv_omega)
  rw [eventsAt_cons, if_neg outside, List.nil_append]

/-- Settles O38: a write adds the events of the registry, which the registry's structure decides. -/
theorem hooksThatFire : Obligations.HooksThatFire :=
  ⟨fun _ _ _ => ⟨rfl, rfl⟩, fun _ => rfl, eventsAt_cons, fun _ hs addr => eventsAt_cons_of_empty hs addr⟩

/-- Settles O33: a cell written with its own word reads as before, and no write asks for a change before it fires;
a `SET` to a cell is one such write (`setPath_endsWriting`). -/
theorem hooksFireOnUnchangedValue : Obligations.HooksFireOnUnchangedValue := by
  refine ⟨fun s addr => ⟨fun x => ?_, rfl⟩, fun b a s addr hs hcell hvalue => ?_⟩
  · rw [memRead_memWrite, ite_eq_right_iff]
    rintro rfl
    rfl
  · obtain ⟨-, -, -, -, -, hmem, htrace, -⟩ := setPath_endsWriting b a hs
    have hloc : operandLoc b s = .mem addr := operandLoc_eq_mem.mpr hcell
    refine ⟨_, rfl, fun x => (hmem x).trans ?_, htrace addr hloc⟩
    split
    case isTrue hx => rw [hvalue, Loc.mem.inj (hloc.symm.trans hx)]
    case isFalse => rfl

end Sys2Proof.Machine
end

section
/-! SUPPORT. The host's load (20_memory.md R67; 60_exceptions.md R260): an image word by word, wrapping. -/

namespace Sys2Proof.Machine

theorem load_cons (s : State) (start v : Word) (rest : List Word) :
    load s start (v :: rest) = load (s.setMem (s.mem.write start v)) (start + 1) rest := rfl

/-- Loading changes memory alone: no hook fires (D21). -/
theorem load_eq (image : List Word) (s : State) (start : Word) :
    load s start image = { s with mem := (load s start image).mem } := by
  induction image generalizing s start with
  | nil => rfl
  | cons v rest ih => exact ih _ _

/-- Going one cell on from the start is going one word on in the image. -/
theorem succ_add_ofNat (start : Word) (k : Nat) :
    start + 1 + BitVec.ofNat 16 k = start + BitVec.ofNat 16 (k + 1) := by
  rw [BitVec.ofNat_add, BitVec.add_comm (BitVec.ofNat 16 k), BitVec.add_assoc]
  rfl

/-- A cell that no word of the image goes to keeps its word. -/
theorem memRead_load_other (image : List Word) (s : State) (start x : Word)
    (h : ∀ k, k < image.length → x ≠ start + BitVec.ofNat 16 k) : memRead (load s start image) x = memRead s x := by
  induction image generalizing s start with
  | nil => rfl
  | cons v rest ih =>
    have hstart : x ≠ start := by simpa using h 0 (by simp)
    rw [load_cons, ih _ _ fun k hk => succ_add_ofNat start k ▸ h (k + 1) (by simpa using hk)]
    exact (Memory.read_write s.mem start v x).trans (if_neg hstart)

/-- An image that does not lap itself reads back word by word. -/
theorem memRead_load (image : List Word) (s : State) (start : Word) (hlen : image.length ≤ 65536) (k : Nat)
    (hk : k < image.length) : memRead (load s start image) (start + BitVec.ofNat 16 k) = image[k] := by
  induction image generalizing s start k with
  | nil => exact absurd hk (Nat.not_lt_zero k)
  | cons v rest ih =>
    have hrest : rest.length < 65536 := hlen
    rw [load_cons]
    cases k with
    | zero =>
      have later : ∀ k, k < rest.length → start + BitVec.ofNat 16 0 ≠ start + 1 + BitVec.ofNat 16 k :=
        fun k hk => by bv_omega
      rw [memRead_load_other rest _ _ _ later]
      exact (Memory.read_write s.mem start v _).trans (if_pos (by simp))
    | succ k =>
      rw [← succ_add_ofNat]
      exact ih _ _ hrest.le k (Nat.lt_of_succ_lt_succ hk)

/-- Settles O58: each clause is a fact about the recursion of `load` along the image. -/
theorem loadStoresTheImage : Obligations.LoadStoresTheImage := fun s start image hlen =>
  ⟨fun k hk => memRead_load image s start hlen k hk, fun x => memRead_load_other image s start x,
    load_eq image s start⟩

end Sys2Proof.Machine
end

section
/-! SUPPORT. Code tables (30_encoding.md R83, R87, R88): where no code and no entry stands twice, the encoder's
reading of a table from right to left inverts the decoder's lookup. -/

namespace Sys2Proof

/-- No code and no entry of the table stands twice. -/
def OneToOne {n : Nat} {α : Type} (table : List (BitVec n × α)) : Prop :=
  (table.map Prod.fst).Nodup ∧ (table.map Prod.snd).Nodup

theorem lookup_eq_some_iff_mem {n : Nat} {α : Type} {table : List (BitVec n × α)} (h : OneToOne table)
    {c : BitVec n} {v : α} : table.lookup c = some v ↔ (c, v) ∈ table := by
  obtain ⟨codes, -⟩ := h
  induction table with
  | nil => simp
  | cons p rest ih =>
    obtain ⟨d, u⟩ := p
    obtain ⟨new, codes⟩ := List.nodup_cons.mp codes
    rw [List.lookup_cons]
    by_cases hc : c = d
    · subst hc
      have : (c, v) ∉ rest := fun hv => new (List.mem_map.mpr ⟨_, hv, rfl⟩)
      simp [this, eq_comm]
    · simp [beq_false_of_ne hc, ih codes, hc]

theorem codeOf_eq_some_iff_mem {n : Nat} {α : Type} [DecidableEq α] {table : List (BitVec n × α)}
    (h : OneToOne table) {c : BitVec n} {v : α} : codeOf table v = some c ↔ (c, v) ∈ table := by
  obtain ⟨-, entries⟩ := h
  induction table with
  | nil => simp [codeOf]
  | cons p rest ih =>
    obtain ⟨d, u⟩ := p
    obtain ⟨new, entries⟩ := List.nodup_cons.mp entries
    by_cases hv : u = v
    · subst hv
      have : (c, u) ∉ rest := fun hc => new (List.mem_map.mpr ⟨_, hc, rfl⟩)
      simp [codeOf, this, eq_comm]
    · simpa [codeOf, hv, Ne.symm hv] using ih entries

theorem codeOf_eq_some_iff_lookup {n : Nat} {α : Type} [DecidableEq α] {table : List (BitVec n × α)}
    (h : OneToOne table) {c : BitVec n} {v : α} : codeOf table v = some c ↔ table.lookup c = some v :=
  (codeOf_eq_some_iff_mem h).trans (lookup_eq_some_iff_mem h).symm

/-! The opcodes (R87, R88). -/

theorem basicOpcodes_oneToOne : OneToOne basicOpcodes := by unfold OneToOne; decide

theorem extOpcodes_oneToOne : OneToOne extOpcodes := by unfold OneToOne; decide

/-- `op` 0 is no basic opcode: it marks the extended form. -/
theorem op_ne_zero_of_basic {op : BitVec 4} {o : BasicOp} (h : basicOpcodes.lookup op = some o) : op ≠ 0 := by
  rintro rfl
  cases h

theorem exists_basicOp {op : BitVec 4} (h : op ≠ 0) : ∃ o, basicOpcodes.lookup op = some o := by
  have every : ∀ op : BitVec 4, op ≠ 0 → (basicOpcodes.lookup op).isSome = true := by decide
  exact Option.isSome_iff_exists.mp (every op h)

theorem BasicOp.exists_opcode (o : BasicOp) : ∃ op, basicOpcodes.lookup op = some o := by
  cases o <;> decide

theorem ExtOp.exists_opcode (o : ExtOp) : ∃ eop, extOpcodes.lookup eop = some o := by
  cases o <;> decide

theorem extOpcodes_lookup_eq_none {eop : BitVec 6} :
    extOpcodes.lookup eop = none ↔ eop ∉ ([0x01, 0x08, 0x09, 0x0A, 0x10, 0x11, 0x12] : List (BitVec 6)) := by
  simp [extOpcodes, List.lookup_eq_none_iff]

/-! The operand codes (R83). -/

theorem operandCodes_oneToOne : OneToOne operandCodes := by unfold OneToOne; decide

theorem operandAt_eq_of_mem {c : BitVec 6} {o : Operand} (h : (c, o) ∈ operandCodes) :
    operandAt defaultEncoding c = o :=
  congrArg (Option.getD · _) ((lookup_eq_some_iff_mem operandCodes_oneToOne).mpr h)

theorem mem_registerCodes {n : Nat} {r : Reg} (base : Nat) (f : Reg → Operand)
    (h : registersInOrder[n]? = some r) : (BitVec.ofNat 6 (base + n), f r) ∈ registerCodes base f :=
  List.mem_map.mpr ⟨(r, n), List.mk_mem_zipIdx_iff_getElem?.mpr h, rfl⟩

/-- The n-th register has the n-th code of each of the three register classes (R22, R83). -/
theorem operandAt_register {n : Nat} {r : Reg} (h : registersInOrder[n]? = some r) :
    operandAt defaultEncoding (BitVec.ofNat 6 n) = .reg r
    ∧ operandAt defaultEncoding (BitVec.ofNat 6 (0x08 + n)) = .ind r
    ∧ operandAt defaultEncoding (BitVec.ofNat 6 (0x10 + n)) = .indNext r := by
  refine ⟨operandAt_eq_of_mem ?_, operandAt_eq_of_mem ?_, operandAt_eq_of_mem ?_⟩
  · simpa [operandCodes] using Or.inl (mem_registerCodes 0x00 .reg h)
  · simp [operandCodes, mem_registerCodes 0x08 .ind h]
  · simp [operandCodes, mem_registerCodes 0x10 .indNext h]

theorem lit_mem_operandCodes {code : BitVec 6} (h : 0x20 ≤ code.toNat) : (code, .lit code) ∈ operandCodes := by
  have hlt : code.toNat < 64 := code.isLt
  refine List.mem_append_right _ (List.mem_map.mpr ⟨code.toNat - 0x20, List.mem_range.mpr (by omega), ?_⟩)
  simp [Nat.add_sub_cancel' h]

theorem operandAt_literal {code : BitVec 6} (h : 0x20 ≤ code.toNat) : operandAt defaultEncoding code = .lit code :=
  operandAt_eq_of_mem (lit_mem_operandCodes h)

/-- The default map assigns every code, none of them to an invalid operand (R83, R90). -/
theorem operandAt_wf (code : BitVec 6) : (operandAt defaultEncoding code).wf = true := by
  revert code; decide

theorem operandCodes_lookup (code : BitVec 6) :
    operandCodes.lookup code = some (operandAt defaultEncoding code) := by
  cases h : operandCodes.lookup code with
  | some o => exact congrArg some (congrArg (Option.getD · _) h).symm
  | none =>
    have invalid : operandAt defaultEncoding code = .invalid code := congrArg (Option.getD · _) h
    exact absurd (operandAt_wf code) (by simp [invalid, Operand.wf])

theorem codeOf_operandAt (c : BitVec 6) :
    codeOf defaultEncoding.operands (operandAt defaultEncoding c) = some c :=
  (codeOf_eq_some_iff_lookup operandCodes_oneToOne).mpr (operandCodes_lookup c)

/-- Every well-formed operand has a code. -/
theorem exists_code_of_wf {o : Operand} (h : o.wf = true) : ∃ c, operandAt defaultEncoding c = o := by
  have listed : o ∈ operandCodes.map Prod.snd := by
    cases o with
    | lit code => exact List.mem_map.mpr ⟨_, lit_mem_operandCodes (of_decide_eq_true h), rfl⟩
    | invalid => cases h
    | reg r | ind r | indNext r => cases r <;> decide
    | _ => decide
  obtain ⟨⟨c, o⟩, hc, rfl⟩ := List.mem_map.mp listed
  exact ⟨c, operandAt_eq_of_mem hc⟩

/-- `NW` told from the operand code (R85). -/
theorem nextWords_operandAt (code : BitVec 6) :
    (operandAt defaultEncoding code).nextWords
      = if (0x10 ≤ code ∧ code ≤ 0x17) ∨ code = 0x1F then 1 else 0 := by
  revert code; decide

end Sys2Proof
end

section
/-! SUPPORT. The three fields of an instruction word (30_encoding.md R81, R82): reading a field and packing the fields
into a word invert each other, by comparing bits. -/

namespace Sys2Proof

/-- The word with the given fields: `(a << 10) | (b << 4) | op` (R92). -/
def packFields (a b : BitVec 6) (op : BitVec 4) : Word := placeField 10 a ||| placeField 4 b ||| placeField 0 op

theorem getLsbD_fieldAt (w : Word) (low n i : Nat) :
    (fieldAt w low n).getLsbD i = (decide (i < n) && w.getLsbD (low + i)) := BitVec.getLsbD_extractLsb' ..

theorem getLsbD_placeField {n : Nat} (low : Nat) (v : BitVec n) {i : Nat} (h : i < 16) :
    (placeField low v).getLsbD i = (decide (low ≤ i) && v.getLsbD (i - low)) := by
  by_cases k : low ≤ i <;> simp [placeField, h, k]

/-- Each bit of a packed word belongs to one field. -/
theorem getLsbD_packFields (a b : BitVec 6) (op : BitVec 4) {i : Nat} (h : i < 16) :
    (packFields a b op).getLsbD i
      = if i < 4 then op.getLsbD i else if i < 10 then b.getLsbD (i - 4) else a.getLsbD (i - 10) := by
  simp only [packFields, BitVec.getLsbD_or, getLsbD_placeField _ _ h]
  by_cases h4 : i < 4
  · have h10 : i < 10 := by omega
    simp [h4, h10, Nat.not_le.mpr]
  · by_cases h10 : i < 10
    · simp [h4, h10, Nat.not_le.mpr, Nat.not_lt.mp]
    · have hb : b.getLsbD (i - 4) = false := BitVec.getLsbD_of_ge b (i - 4) (by omega)
      simp [h4, h10, hb, Nat.not_lt.mp]

theorem fieldAt_packFields_op (a b : BitVec 6) (op : BitVec 4) : fieldAt (packFields a b op) 0 4 = op := by
  refine BitVec.eq_of_getLsbD_eq fun i hi => ?_
  rw [getLsbD_fieldAt, getLsbD_packFields a b op (by omega)]
  simp [hi]

theorem fieldAt_packFields_b (a b : BitVec 6) (op : BitVec 4) : fieldAt (packFields a b op) 4 6 = b := by
  refine BitVec.eq_of_getLsbD_eq fun i hi => ?_
  have h10 : 4 + i < 10 := by omega
  rw [getLsbD_fieldAt, getLsbD_packFields a b op (by omega)]
  simp [hi, h10]

theorem fieldAt_packFields_a (a b : BitVec 6) (op : BitVec 4) : fieldAt (packFields a b op) 10 6 = a := by
  refine BitVec.eq_of_getLsbD_eq fun i hi => ?_
  have h4 : ¬10 + i < 4 := by omega
  rw [getLsbD_fieldAt, getLsbD_packFields a b op (by omega)]
  simp [hi, h4]

/-- A word is its three fields put back in their places. -/
theorem packFields_fieldAt (w : Word) : packFields (fieldAt w 10 6) (fieldAt w 4 6) (fieldAt w 0 4) = w := by
  refine BitVec.eq_of_getLsbD_eq fun i hi => ?_
  rw [getLsbD_packFields _ _ _ hi, getLsbD_fieldAt, getLsbD_fieldAt, getLsbD_fieldAt]
  by_cases h4 : i < 4
  · simp [h4]
  · by_cases h10 : i < 10
    · have hb : i - 4 < 6 := by omega
      simp [h4, h10, hb, Nat.not_lt.mp]
    · have ha : i - 10 < 6 := by omega
      simp [h4, h10, ha, Nat.not_lt.mp]

end Sys2Proof
end

section
/-! SUPPORT. The two forms of an instruction, basic and extended (30_encoding.md R81, R82): what well-formedness,
length and the encoder say of each. -/

namespace Sys2Proof

/-- Every instruction is that of a basic opcode and two operands, or of an extended one and one operand. -/
theorem Instr.basic_or_ext (i : Instr) :
    (∃ (o : BasicOp) (b a : Operand), i = o.instr b a) ∨ ∃ (o : ExtOp) (a : Operand), i = o.instr a := by
  cases i with
  | set b a => exact .inl ⟨.set, b, a, rfl⟩
  | add b a => exact .inl ⟨.add, b, a, rfl⟩
  | sub b a => exact .inl ⟨.sub, b, a, rfl⟩
  | mul b a => exact .inl ⟨.mul, b, a, rfl⟩
  | div b a => exact .inl ⟨.div, b, a, rfl⟩
  | mod b a => exact .inl ⟨.mod, b, a, rfl⟩
  | shl b a => exact .inl ⟨.shl, b, a, rfl⟩
  | shr b a => exact .inl ⟨.shr, b, a, rfl⟩
  | and b a => exact .inl ⟨.and, b, a, rfl⟩
  | bor b a => exact .inl ⟨.bor, b, a, rfl⟩
  | xor b a => exact .inl ⟨.xor, b, a, rfl⟩
  | ife b a => exact .inl ⟨.ife, b, a, rfl⟩
  | ifn b a => exact .inl ⟨.ifn, b, a, rfl⟩
  | ifg b a => exact .inl ⟨.ifg, b, a, rfl⟩
  | ifb b a => exact .inl ⟨.ifb, b, a, rfl⟩
  | jsr a => exact .inr ⟨.jsr, a, rfl⟩
  | int a => exact .inr ⟨.int, a, rfl⟩
  | iag a => exact .inr ⟨.iag, a, rfl⟩
  | ias a => exact .inr ⟨.ias, a, rfl⟩
  | hwn a => exact .inr ⟨.hwn, a, rfl⟩
  | hwq a => exact .inr ⟨.hwq, a, rfl⟩
  | hwi a => exact .inr ⟨.hwi, a, rfl⟩

@[simp] theorem BasicOp.wf_instr (o : BasicOp) (b a : Operand) : (o.instr b a).wf = (b.wf && a.wf) := by
  cases o <;> rfl

@[simp] theorem ExtOp.wf_instr (o : ExtOp) (a : Operand) : (o.instr a).wf = a.wf := by
  cases o <;> rfl

theorem BasicOp.length_instr (o : BasicOp) (b a : Operand) :
    (o.instr b a).length = 1 + (b.nextWords + a.nextWords) := by
  cases o <;> rfl

theorem ExtOp.length_instr (o : ExtOp) (a : Operand) : (o.instr a).length = 1 + a.nextWords := by
  cases o <;> rfl

theorem BasicOp.encode_instr (o : BasicOp) (b a : Operand) :
    encode (o.instr b a) = encodeBasic defaultEncoding o b a := by
  cases o <;> rfl

theorem ExtOp.encode_instr (o : ExtOp) (a : Operand) : encode (o.instr a) = encodeExt defaultEncoding o a := by
  cases o <;> rfl

end Sys2Proof
end

section
/-! SUPPORT. Decoding and encoding (30_encoding.md R81, R82, R86 to R92; 40_execution_cycle.md R112), told by the
opcode tables and the fields of the word. -/

namespace Sys2Proof

/-- The operand of the `a` field (R81, R82). -/
def operandA (w : Word) : Operand := operandAt defaultEncoding (fieldAt w 10 6)

/-- The operand of the `b` field (R81). -/
def operandB (w : Word) : Operand := operandAt defaultEncoding (fieldAt w 4 6)

theorem decode_of_basic {w : Word} {o : BasicOp} (h : basicOpcodes.lookup (fieldAt w 0 4) = some o) :
    decode w = .instr (o.instr (operandB w) (operandA w)) := by
  simp only [decode, decodeWith, defaultEncoding, operandA, operandB, if_neg (op_ne_zero_of_basic h), h]

theorem decode_of_ext {w : Word} {o : ExtOp} (hop : fieldAt w 0 4 = 0)
    (h : extOpcodes.lookup (fieldAt w 4 6) = some o) : decode w = .instr (o.instr (operandA w)) := by
  simp only [decode, decodeWith, defaultEncoding, operandA, if_pos hop, h]

theorem decode_of_no_opcode {w : Word} (hop : fieldAt w 0 4 = 0) (h : extOpcodes.lookup (fieldAt w 4 6) = none) :
    decode w = .unassigned w := by
  simp only [decode, decodeWith, defaultEncoding, if_pos hop, h]

/-- A word has the basic form, the extended form, or neither (R87, R88, R89). -/
theorem decode_cases (w : Word) :
    (∃ o, basicOpcodes.lookup (fieldAt w 0 4) = some o ∧ decode w = .instr (o.instr (operandB w) (operandA w)))
    ∨ (fieldAt w 0 4 = 0 ∧ ∃ o, extOpcodes.lookup (fieldAt w 4 6) = some o
        ∧ decode w = .instr (o.instr (operandA w)))
    ∨ (fieldAt w 0 4 = 0 ∧ extOpcodes.lookup (fieldAt w 4 6) = none ∧ decode w = .unassigned w) := by
  by_cases hop : fieldAt w 0 4 = 0
  · cases h : extOpcodes.lookup (fieldAt w 4 6) with
    | some o => exact .inr (.inl ⟨hop, o, rfl, decode_of_ext hop h⟩)
    | none => exact .inr (.inr ⟨hop, rfl, decode_of_no_opcode hop h⟩)
  · obtain ⟨o, h⟩ := exists_basicOp hop
    exact .inl ⟨o, h, decode_of_basic h⟩

theorem encode_basic {o : BasicOp} {op : BitVec 4} (h : basicOpcodes.lookup op = some o) (b a : BitVec 6) :
    encode (o.instr (operandAt defaultEncoding b) (operandAt defaultEncoding a)) = some (packFields a b op) := by
  have hop : codeOf defaultEncoding.basic o = some op := (codeOf_eq_some_iff_lookup basicOpcodes_oneToOne).mpr h
  rw [BasicOp.encode_instr, encodeBasic, hop, codeOf_operandAt, codeOf_operandAt]
  rfl

/-- The extended form is the basic layout with `op` 0. -/
theorem encode_ext {o : ExtOp} {eop : BitVec 6} (h : extOpcodes.lookup eop = some o) (a : BitVec 6) :
    encode (o.instr (operandAt defaultEncoding a)) = some (packFields a eop 0) := by
  have heop : codeOf defaultEncoding.ext o = some eop := (codeOf_eq_some_iff_lookup extOpcodes_oneToOne).mpr h
  rw [ExtOp.encode_instr, encodeExt, heop, codeOf_operandAt]
  simp [packFields, placeField, defaultEncoding]

/-- Settles O1: a well-formed instruction is that of some opcode and operand codes, and the word that packs these has
them as its fields. -/
theorem decodeInvertsEncode : Obligations.DecodeInvertsEncode := by
  intro i hwf
  rcases i.basic_or_ext with ⟨o, b, a, rfl⟩ | ⟨o, a, rfl⟩
  · obtain ⟨hb, ha⟩ := Bool.and_eq_true_iff.mp (o.wf_instr b a ▸ hwf)
    obtain ⟨bc, rfl⟩ := exists_code_of_wf hb
    obtain ⟨ac, rfl⟩ := exists_code_of_wf ha
    obtain ⟨op, hop⟩ := o.exists_opcode
    refine ⟨packFields ac bc op, encode_basic hop bc ac, ?_⟩
    rw [decode_of_basic (o := o) (by rwa [fieldAt_packFields_op]), operandA, operandB, fieldAt_packFields_a,
      fieldAt_packFields_b]
  · obtain ⟨ac, rfl⟩ := exists_code_of_wf (o.wf_instr a ▸ hwf)
    obtain ⟨eop, heop⟩ := o.exists_opcode
    refine ⟨packFields ac eop 0, encode_ext heop ac, ?_⟩
    rw [decode_of_ext (o := o) (fieldAt_packFields_op ac eop 0) (by rwa [fieldAt_packFields_b]), operandA,
      fieldAt_packFields_a]

/-- Settles O2: the operands a word decodes to are well formed, and encoding packs the word's own fields. -/
theorem encodeInvertsDecode : Obligations.EncodeInvertsDecode := by
  intro w i h
  rcases decode_cases w with ⟨o, hop, hd⟩ | ⟨hop, o, heop, hd⟩ | ⟨-, -, hd⟩ <;> rw [hd] at h <;> cases h
  · exact ⟨by simp [operandA, operandB, operandAt_wf],
      (encode_basic hop _ _).trans (congrArg some (packFields_fieldAt w))⟩
  · exact ⟨by simp [operandA, operandAt_wf],
      (encode_ext heop _).trans (congrArg some (hop ▸ packFields_fieldAt w))⟩

/-- Settles O3, by the form of the word. -/
theorem unassignedWordsAreExactly : Obligations.UnassignedWordsAreExactly := by
  intro w
  rw [← extOpcodes_lookup_eq_none]
  rcases decode_cases w with ⟨o, hop, hd⟩ | ⟨-, o, heop, hd⟩ | ⟨hop, heop, hd⟩
  · exact ⟨iff_of_false (by simp [hd]) fun ⟨h0, _⟩ => op_ne_zero_of_basic hop h0, .inr ⟨_, hd⟩⟩
  · exact ⟨iff_of_false (by simp [hd]) fun ⟨_, hnone⟩ => by simp [heop] at hnone, .inr ⟨_, hd⟩⟩
  · exact ⟨iff_of_true hd ⟨hop, heop⟩, .inl hd⟩

theorem basicOpcodeDecodes {op : BitVec 4} {o : BasicOp} (h : basicOpcodes.lookup op = some o) :
    Machine.BasicOpcodeDecodes op fun b a => o.instr b a := by
  rintro w rfl
  exact decode_of_basic h

theorem extOpcodeDecodes {eop : BitVec 6} {o : ExtOp} (h : extOpcodes.lookup eop = some o) :
    Machine.ExtOpcodeDecodes eop fun a => o.instr a := by
  rintro w hop rfl
  exact decode_of_ext hop h

/-- Settles O4: each clause is one row of a code table. -/
theorem opcodeMap : Obligations.OpcodeMap :=
  ⟨basicOpcodeDecodes (o := .set) rfl, basicOpcodeDecodes (o := .add) rfl, basicOpcodeDecodes (o := .sub) rfl,
    basicOpcodeDecodes (o := .mul) rfl, basicOpcodeDecodes (o := .div) rfl, basicOpcodeDecodes (o := .mod) rfl,
    basicOpcodeDecodes (o := .shl) rfl, basicOpcodeDecodes (o := .shr) rfl, basicOpcodeDecodes (o := .and) rfl,
    basicOpcodeDecodes (o := .bor) rfl, basicOpcodeDecodes (o := .xor) rfl, basicOpcodeDecodes (o := .ife) rfl,
    basicOpcodeDecodes (o := .ifn) rfl, basicOpcodeDecodes (o := .ifg) rfl, basicOpcodeDecodes (o := .ifb) rfl,
    extOpcodeDecodes (o := .jsr) rfl, extOpcodeDecodes (o := .int) rfl, extOpcodeDecodes (o := .iag) rfl,
    extOpcodeDecodes (o := .ias) rfl, extOpcodeDecodes (o := .hwn) rfl, extOpcodeDecodes (o := .hwq) rfl,
    extOpcodeDecodes (o := .hwi) rfl, fun _ _ => operandAt_register, rfl, rfl, rfl, rfl, rfl, rfl, rfl, rfl,
    fun _ => operandAt_literal⟩

/-- Settles O6, by the form of the word: the operand codes decide the next-word counts. -/
theorem lengthFromFirstWord : Obligations.LengthFromFirstWord := by
  unfold Obligations.LengthFromFirstWord
  simp only [← nextWords_operandAt]
  intro w i h
  rcases decode_cases w with ⟨o, hop, hd⟩ | ⟨hop, o, -, hd⟩ | ⟨-, -, hd⟩ <;> rw [hd] at h <;> cases h
  · rw [if_neg (op_ne_zero_of_basic hop), BasicOp.length_instr, ← Nat.add_assoc]
    rfl
  · rw [if_pos hop, ExtOp.length_instr]
    rfl

/-- Settles O5: ten closed words. -/
theorem specWordsDecode : Obligations.SpecWordsDecode := by
  unfold Obligations.SpecWordsDecode
  decide

end Sys2Proof
end

section
/-! SUPPORT. The statements about the operand table in normal mode (30_encoding.md R83, R84): its closed forms, and its
literals. -/

namespace Sys2Proof.Machine

/-- Settles O7. -/
theorem locatorTable : Obligations.LocatorTable := fun o _ h => resolveLoc_of_not_skip o h

/-- Settles O8. -/
theorem valueTable : Obligations.ValueTable := fun o _ h => resolveValue_of_not_skip o h

/-- A literal moves neither `pc` nor `sp`. -/
theorem afterOperand_lit (code : BitVec 6) (s : State) : afterOperand (.lit code) s = s := by
  simp [afterOperand, Operand.nextWords, Operand.spShift]

/-- The default `LITERAL_VALUE` of the n-th literal code (R84, D5). -/
theorem literalValue_minus20 {n : Nat} (h : n < 32) :
    literalValue .minus20 (BitVec.ofNat 6 (0x20 + n)) = BitVec.ofNat 16 n := by
  unfold literalValue
  bv_omega

/-- Settles O14: the operand is the literal that keeps its code, whose value does not depend on the state. -/
theorem literalValues : Obligations.LiteralValues := by
  intro n s hn hskip hmode
  have hcode : 0x20 ≤ (BitVec.ofNat 6 (0x20 + n)).toNat := by
    rw [BitVec.toNat_ofNat]
    omega
  rw [operandAt_literal hcode, resolveLoc_of_not_skip _ hskip, resolveValue_of_not_skip _ hskip, afterOperand_lit]
  simp [operandValue, operandLoc, operandCell, hmode, literalValue_minus20 hn]

end Sys2Proof.Machine
end

section
/-! SUPPORT. What a transition answers, by what the boundary does and what the fetched word decodes to
(40_execution_cycle.md R111; 60_exceptions.md R248; 30_encoding.md R89). -/

namespace Sys2Proof.Machine

theorem step_of_dispatched {s t : State} (h : boundary s = .dispatched t) : step s = .next t := by
  rw [step, stepWith, h]

theorem step_of_proceeds {s u : State} (h : boundary s = .proceeds u) :
    step s = stepInstrWith defaultEncoding u := by
  rw [step, stepWith, h]

theorem stepInstrWith_of_instr {e : Encoding} {u : State} {i : Instr}
    (h : decodeWith e (fetchedWord u) = .instr i) : stepInstrWith e u = exec i (afterFetch u) := by
  rw [stepInstrWith, h]

theorem stepInstrWith_of_unassigned {e : Encoding} {u : State} {w : Word}
    (h : decodeWith e (fetchedWord u) = .unassigned w) :
    stepInstrWith e u = .refused (.undefinedInstruction w (afterFetch u)) := by
  rw [stepInstrWith, h]

/-- Settles O49: where the boundary goes on, the word decodes, and `exec` always completes (`exec_instrFrame`), or it
is unassigned, by its own value. -/
theorem stepOutcomes : Obligations.StepOutcomes := by
  intro s
  cases hb : boundary s with
  | dispatched t => exact .inl ⟨t, rfl, step_of_dispatched hb⟩
  | proceeds u =>
    obtain ⟨-, hd | ⟨i, hd⟩⟩ := unassignedWordsAreExactly (fetchedWord u)
    · exact .inr (.inr ⟨u, rfl, hd, (step_of_proceeds hb).trans (stepInstrWith_of_unassigned hd)⟩)
    · obtain ⟨t, ht, -⟩ := exec_instrFrame i (afterFetch u)
      exact .inr (.inl ⟨u, i, t, rfl, hd, (step_of_proceeds hb).trans ((stepInstrWith_of_instr hd).trans ht)⟩)

end Sys2Proof.Machine
end

section
/-! SUPPORT. The pending-skip flag (40_execution_cycle.md R131, R134, R136; 42_conditional.md R190): an unskipped
conditional sets it to its failed condition, every other handler clears it, and a pending skip keeps dispatches away. -/

namespace Sys2Proof.Machine

/-- An unskipped conditional resolves its operands and sets `skip` to the failed condition (R190). -/
theorem exec_conditional {i : Instr} {s : State} (hi : i.isConditional = true) (hs : s.skip = false) :
    exec i s = .next ((afterInstrOperands i s).setSkip (!conditionHolds i s)) := by
  cases i with
  | ife b a | ifn b a | ifg b a | ifb b a => exact congrArg Host.Outcome.next (conditional_of_not_skip _ b a hs)
  | _ => cases hi

/-- Every instruction completes, and leaves `skip` set iff it is an unskipped conditional whose condition fails. -/
theorem exec_skip_iff (i : Instr) (s : State) :
    ∃ t, exec i s = .next t
      ∧ (t.skip = true ↔ i.isConditional = true ∧ s.skip = false ∧ conditionHolds i s = false) := by
  by_cases hset : s.skip = false ∧ i.isConditional = true
  · obtain ⟨hs, hi⟩ := hset
    exact ⟨_, exec_conditional hi hs, by simp [hi, hs]⟩
  · obtain ⟨t, ht, frame⟩ := exec_instrFrame i s
    exact ⟨t, ht, iff_of_false (fun h => hset (frame.skip h)) fun ⟨hi, hs, _⟩ => hset ⟨hs, hi⟩⟩

/-- An operand's value does not depend on the mark of a dispatch. -/
theorem operandValue_setDispatched (o : Operand) (s : State) (d : Bool) :
    operandValue o (s.setDispatched d) = operandValue o s := by
  cases o <;> rfl

theorem sourceValue_setDispatched (b a : Operand) (s : State) (d : Bool) :
    sourceValue b a (s.setDispatched d) = sourceValue b a s :=
  operandValue_setDispatched a (afterOperand b s) d

/-- Nor does a condition. -/
theorem conditionHolds_setDispatched (i : Instr) (s : State) (d : Bool) :
    conditionHolds i (s.setDispatched d) = conditionHolds i s := by
  cases i <;> simp only [conditionHolds, operandValue_setDispatched, sourceValue_setDispatched]

/-- Settles O36: the flag is the handler's (`exec_skip_iff`), whose condition does not see what else the fetch does. -/
theorem skipFlagAfterStep : Obligations.SkipFlagAfterStep := by
  intro s t h
  obtain ⟨i, hi, hx⟩ := stepInstrWith_next h
  refine ⟨i, hi, ?_⟩
  rw [← conditionHolds_setDispatched i _ false]
  exact property_of_exec_next (exec_skip_iff i (afterFetch s)) hx

/-- Settles O35: only an unskipped conditional leaves the flag set (`exec_skip_iff`). -/
theorem handlersClearSkip : Obligations.HandlersClearSkip := by
  intro i s t hx hcase
  refine Bool.eq_false_iff.mpr fun hset => ?_
  obtain ⟨hi, hs, -⟩ := (property_of_exec_next (exec_skip_iff i s) hx).mp hset
  rcases hcase with hplain | hskipped
  · cases hplain.symm.trans hi
  · cases hs.symm.trans hskipped

/-- Where no dispatch is enabled the boundary goes on in the same state. -/
theorem boundary_of_not_ready {s : State} (h : dispatchReady s = false) : boundary s = .proceeds s :=
  if_neg (by simp [h])

/-- No dispatch stands between a failed conditional and the instruction it skips (60_exceptions.md R248). -/
theorem boundary_of_skip {s : State} (h : s.skip = true) : boundary s = .proceeds s :=
  boundary_of_not_ready (by simp [dispatchReady, h])

/-- The instruction's words are the fetched one and those of its operands (R86). -/
theorem add_one_add_nextWords (w : Word) (i : Instr) :
    w + 1 + BitVec.ofNat 16 i.nextWords = w + BitVec.ofNat 16 i.length := by
  rw [succ_add_ofNat, Instr.length, Nat.add_comm]

/-- Settles O34: the step fetches, and the skipped handler ends as `EndsSkipped` says. -/
theorem skipIsolation : Obligations.SkipIsolation := by
  intro s i hs hd
  obtain ⟨t, ht, d, n, rfl, -⟩ := exec_endsSkipped i (s := afterFetch s) hs
  refine ⟨_, (step_of_proceeds (boundary_of_skip hs)).trans ((stepInstrWith_of_instr hd).trans ht), ?_⟩
  rw [← add_one_add_nextWords]
  rfl

end Sys2Proof.Machine
end

section
/-! SUPPORT. Resolving an operand (40_execution_cycle.md R117, R119 to R123, R137): skip mode, consumed words, and
what reading the operand again gives after its locator was resolved and written. -/

namespace Sys2Proof.Machine

/-- Settles O9. -/
theorem skipModeLocator : Obligations.SkipModeLocator := fun o _ h => resolveLoc_of_skip o h

/-- Settles O10. -/
theorem skipModeValue : Obligations.SkipModeValue := fun o _ h => congrArg Prod.snd (resolveValue_of_skip o h)

/-! Consumed words. -/

theorem resolveLoc_pc (o : Operand) (s : State) : (resolveLoc o s).2.pc = s.pc + BitVec.ofNat 16 o.nextWords := by
  cases hs : s.skip with
  | true => rw [resolveLoc_of_skip o hs]
  | false => rw [resolveLoc_of_not_skip o hs]; rfl

theorem resolveValue_pc (o : Operand) (s : State) :
    (resolveValue o s).2.pc = s.pc + BitVec.ofNat 16 o.nextWords := by
  cases hs : s.skip with
  | true => rw [resolveValue_of_skip o hs]
  | false => rw [resolveValue_of_not_skip o hs]; rfl

/-- Settles O12: the resolvers mode by mode; of an instruction the frame says when it moves `pc` otherwise. -/
theorem wordConsumption : Obligations.WordConsumption := by
  refine ⟨fun o s => ⟨resolveLoc_pc o s, resolveValue_pc o s⟩, fun i s t hx hcase => ?_⟩
  have frame := property_of_exec_next (exec_instrFrame i s) hx
  by_contra hne
  obtain ⟨hs, hwrites⟩ := frame.pc hne
  rcases hcase with hskipped | hplain
  · cases hs.symm.trans hskipped
  · cases hplain.symm.trans hwrites

/-! "Resolve once", right after the operand's locator. -/

/-- Without a next word and a move of `sp`, resolving changes nothing. -/
theorem afterOperand_eq_self {o : Operand} (hwords : o.nextWords = 0) (hshift : o.spShift = 0) (s : State) :
    afterOperand o s = s := by
  simp [afterOperand, hwords, hshift]

/-- "Resolve once" undoes the resolver's moves of `pc` and `sp` in what it reads (R120). -/
theorem resolveOnceNormal_afterOperand (o : Operand) (s : State) :
    resolveOnceNormal o (afterOperand o s) = operandValue o s := by
  cases o with
  | indNext r | imm | pop =>
    simp [resolveOnceNormal, afterOperand, operandValue, operandCell, Operand.nextWords, Operand.spShift, memRead,
      State.reg]
  | push => rw [afterOperand_push]; rfl
  | _ =>
    rw [afterOperand_eq_self rfl rfl]
    exact congrArg Prod.fst (resolveValueNormal_eq _ s)

theorem resolveOnce_afterOperand (o : Operand) {s : State} (h : s.skip = false) :
    resolveOnce o (afterOperand o s) = operandValue o s :=
  (resolveOnce_normal o (s := afterOperand o s) h).trans (resolveOnceNormal_afterOperand o s)

/-- Where the operand has a locator, its value is what the locator names, also after it was resolved. -/
theorem readLoc_operandLoc {o : Operand} {s : State} (h : operandLoc o s ≠ .discard) :
    readLoc (afterOperand o s) (operandLoc o s) = operandValue o s := by
  cases o with
  | imm | lit | invalid => exact absurd rfl h
  | ind | indNext | pop | peek | push | reg | ex | ia => rfl
  | sp | pc => rw [afterOperand_eq_self rfl rfl]; rfl

/-- Settles O11. -/
theorem resolveOnceReadsTheLocator : Obligations.ResolveOnceReadsTheLocator := by
  intro o s hs
  rw [resolveLoc_of_not_skip o hs, resolveOnce_afterOperand o hs]
  exact ⟨fun hloc => (readLoc_operandLoc hloc).symm, rfl⟩

/-! The round trip of a written word. -/

/-- An operand that names a place without moving anything reads back the word written there. -/
theorem operandValue_writeLoc {o : Operand} {s : State} (hwords : o.nextWords = 0) (hshift : o.spShift = 0)
    (hloc : operandLoc o s ≠ .discard) (v : Word) : operandValue o (writeLoc s (operandLoc o s) v) = v := by
  cases o with
  | lit | invalid => exact absurd rfl hloc
  | indNext | imm => cases hwords
  | pop | push => cases hshift
  | reg r => exact (State.reg_setReg s r r v).trans (if_pos rfl)
  | ind r => exact (memRead_memWrite s (s.reg r) v (s.reg r)).trans (if_pos rfl)
  | peek => exact (memRead_memWrite s s.sp v s.sp).trans (if_pos rfl)
  | sp | pc | ex | ia => rfl

/-- Where resolving moved `pc` or `sp`, "resolve once" finds the written cell again, unless the write hit the
operand's own next word (log 13). -/
theorem resolveOnceNormal_writeLoc {o : Operand} {s : State}
    (h : o = .pop ∨ o = .push ∨ ((∃ r, o = .indNext r) ∧ operandCell o s ≠ some s.pc)) (v : Word) :
    resolveOnceNormal o (writeLoc (afterOperand o s) (operandLoc o s) v) = v := by
  rcases h with rfl | rfl | ⟨⟨r, rfl⟩, hcell⟩
  · have back : (afterOperand .pop s).sp - 1 = s.sp := BitVec.add_sub_cancel s.sp 1
    exact (memRead_memWrite _ s.sp v _).trans (if_pos back)
  · have down : (afterOperand .push s).sp = s.sp - 1 := add_push_shift s.sp
    exact (memRead_memWrite _ (s.sp - 1) v _).trans (if_pos down)
  · have back : s.pc + 1 - 1 = s.pc := BitVec.add_sub_cancel s.pc 1
    have kept : s.pc ≠ s.reg r + memRead s s.pc := fun e => hcell (congrArg some e.symm)
    have word : memRead (writeLoc (afterOperand (.indNext r) s) (operandLoc (.indNext r) s) v) (s.pc + 1 - 1)
        = memRead s s.pc :=
      (memRead_memWrite _ _ v _).trans (by rw [back, if_neg kept]; rfl)
    exact (memRead_memWrite _ _ v _).trans (if_pos (congrArg (s.reg r + ·) word))

theorem resolveOnce_setDiscard (o : Operand) (s : State) (v : Word) :
    resolveOnce o (s.setDiscard v) = resolveOnce o s := by
  cases o <;> rfl

/-- Settles O13: each clause is one of the lemmas above; a write to `Discard` is seen by no operand. -/
theorem locatorRoundTrip : Obligations.LocatorRoundTrip := by
  intro o s v hs
  rw [resolveLoc_of_not_skip o hs]
  have hskip : (writeLoc (afterOperand o s) (operandLoc o s) v).skip = false :=
    (writeLoc_keeps _ _ v).1.trans hs
  refine ⟨fun hwords hshift hloc => ?_, fun hmoves => ?_, fun hloc => ?_⟩
  · rw [resolveValue_of_not_skip o hskip, afterOperand_eq_self hwords hshift]
    exact operandValue_writeLoc hwords hshift hloc v
  · rw [resolveOnce_normal o hskip]
    exact resolveOnceNormal_writeLoc hmoves v
  · rw [hloc]
    exact (resolveOnce_setDiscard o _ v).trans (resolveOnce_afterOperand o hs)

end Sys2Proof.Machine
end

section
/-! SUPPORT. The step runs the instruction at `pc` (40_execution_cycle.md R110, R111), also one placed there by
`withFetchWord` (log 11). -/

namespace Sys2Proof.Machine

/-- Settles O48. -/
theorem stepRunsDecodedInstr : Obligations.StepRunsDecodedInstr := fun _ _ _ hb hd =>
  (step_of_proceeds hb).trans (stepInstrWith_of_instr hd)

/-- Placing a word changes memory and lets no dispatch come before the step. -/
theorem withFetchWord_eq (s : State) (nbits w : Nat) :
    s.withFetchWord nbits w = { s with mem := (s.withFetchWord nbits w).mem, dispatched := true } := rfl

/-- A placed instruction fills the three cells from `pc` on, the lowest 16 bits first, and no other. -/
theorem memRead_withFetchWord (s : State) (nbits w : Nat) (x : Word) :
    memRead (s.withFetchWord nbits w) x
      = if x = s.pc + 2 then w16 ((w % 2 ^ nbits) >>> 32)
        else if x = s.pc + 1 then w16 ((w % 2 ^ nbits) >>> 16)
        else if x = s.pc then w16 (w % 2 ^ nbits)
        else memRead s x := by
  simp [State.withFetchWord, storeInstr, memRead]

theorem fetchedWord_withFetchWord (s : State) (w : Word) : fetchedWord (s.withFetchWord 16 w.toNat) = w := by
  have h2 : s.pc ≠ s.pc + 2 := by bv_omega
  have h1 : s.pc ≠ s.pc + 1 := by bv_omega
  have hw : w16 (w.toNat % 2 ^ 16) = w := by rw [Nat.mod_eq_of_lt w.isLt, w16, BitVec.ofNat_toNat, BitVec.setWidth_eq]
  exact (memRead_withFetchWord s 16 w.toNat s.pc).trans (by rw [if_neg h2, if_neg h1, if_pos rfl, hw])

/-- Settles O50: no dispatch is enabled where one has just been marked, so the step fetches the placed word. -/
theorem placedInstrRuns : Obligations.PlacedInstrRuns := by
  intro s w i hd
  have hboundary : boundary (s.withFetchWord 16 w.toNat) = .proceeds (s.withFetchWord 16 w.toNat) :=
    boundary_of_not_ready (Bool.and_false _)
  refine ⟨stepRunsDecodedInstr _ _ i hboundary ?_, withFetchWord_eq s 16 w.toNat, fun x h0 h1 h2 => ?_⟩
  · exact (congrArg decode (fetchedWord_withFetchWord s w)).trans hd
  · rw [memRead_withFetchWord, if_neg h2, if_neg h1, if_neg h0]

end Sys2Proof.Machine
end

section
/-! SUPPORT. The results of the arithmetic, shift and bitwise instructions (41_assign_arith.md R150 to R162): each
function `F_op` in closed form, put into the read-modify-write skeleton. -/

namespace Sys2Proof.Machine

/-! The closed forms. -/

theorem w16_toNat (w : Word) : w16 w.toNat = w := by rw [w16, BitVec.ofNat_toNat, BitVec.setWidth_eq]

/-- A multiple of 65536 narrows to 0. -/
theorem w16_mul_65536 (n : Nat) : w16 (n * 65536) = 0 := (BitVec.ofNat_mul n 65536).trans BitVec.mul_zero

theorem w16Int_sub_toNat (vb va : Word) : w16Int ((vb.toNat : Int) - va.toNat) = vb - va := by
  rw [w16Int, Int.sub_eq_add_neg, BitVec.ofInt_add, BitVec.ofInt_neg, BitVec.ofInt_natCast, BitVec.ofInt_natCast,
    ← BitVec.sub_eq_add_neg]
  exact congrArg₂ (· - ·) (w16_toNat vb) (w16_toNat va)

theorem fAdd_eq (vb va : Word) :
    fAdd vb va = { r := vb + va, e := some (if vb.toNat + va.toNat < 65536 then 0 else 1) } := by
  have hcarry : vb.toNat + va.toNat > 0xFFFF ↔ ¬ vb.toNat + va.toNat < 65536 := by omega
  simp only [fAdd, hcarry, ite_not]
  rfl

theorem fSub_eq (vb va : Word) :
    fSub vb va = { r := vb - va, e := some (if vb < va then 0xFFFF else 0) } := by
  have hborrow : (vb.toNat : Int) - va.toNat < 0 ↔ vb < va := by
    rw [BitVec.lt_def]
    omega
  simp only [fSub, w16Int_sub_toNat, hborrow]

theorem fMul_eq (vb va : Word) :
    fMul vb va = { r := vb * va, e := some (BitVec.ofNat 16 (vb.toNat * va.toNat / 65536)) } := by
  simp only [fMul, Nat.shiftRight_eq_div_pow]
  rfl

/-- Also by zero, where the quotient of words is 0. -/
theorem fDiv_eq (m : DivEx) (vb va : Word) :
    fDiv m vb va = { r := vb / va, e := if va = 0 then some 0 else divExValue m vb va } := by
  by_cases h : va = 0
  · rw [fDiv, if_pos h, if_pos h, h, BitVec.ofNat_eq_ofNat, BitVec.udiv_zero]
  · rw [fDiv, if_neg h, if_neg h, BitVec.udiv_def, w16]

theorem fMod_eq (m : ModEx) (vb va : Word) :
    fMod m vb va
      = { r := if va = 0 then 0 else vb % va, e := if m = .zeroOnDivZero ∧ va = 0 then some 0 else none } := by
  rw [BitVec.umod_def]
  cases m with
  | none => rfl
  | zeroOnDivZero => simp [fMod, modExValue, w16]

theorem fShl_eq (vb va : Word) :
    fShl vb va = { r := BitVec.ofNat 16 (vb.toNat * 2 ^ va.toNat),
                   e := some (BitVec.ofNat 16 (vb.toNat * 2 ^ va.toNat / 65536)) } := by
  simp only [fShl, w16, Nat.shiftLeft_eq, Nat.shiftRight_eq_div_pow, Nat.reducePow]

/-- The two shifts of the double-width value commute. -/
theorem fShr_eq (vb va : Word) :
    fShr vb va = { r := BitVec.ofNat 16 (vb.toNat / 2 ^ va.toNat),
                   e := some (BitVec.ofNat 16 (vb.toNat * 65536 / 2 ^ va.toNat)) } := by
  have hhigh : vb.toNat * 65536 / 2 ^ va.toNat / 65536 = vb.toNat / 2 ^ va.toNat := by
    rw [Nat.div_right_comm, Nat.mul_div_cancel _ (by decide)]
  rw [← hhigh]
  simp only [fShr, w16, Nat.shiftLeft_eq, Nat.shiftRight_eq_div_pow, Nat.reducePow]

/-! The read-modify-write skeleton. -/

/-- An unskipped read-modify-write with result `r` and `ex` write `e` ends as `EndsWriting` says: the second read
of the destination sees the value it had before the instruction (R120, R150). -/
theorem readModifyWrite_result {f : Word → Word → AluResult} {b a : Operand} {s : State} {r : Word} {e : Option Word}
    (hs : s.skip = false) (hf : f (operandValue b s) (sourceValue b a s) = { r := r, e := e }) :
    EndsWriting (afterOperands b a s) (readModifyWrite f b a s) (operandLoc b s) r e := by
  have hends := readModifyWrite_endsWriting f b a hs
  rwa [resolveOnce_afterOperand b hs, hf] at hends

/-- Settles O15. -/
theorem setResult : Obligations.SetResult := fun b a _ hs => ⟨_, rfl, setPath_endsWriting b a hs⟩

/-- Settles O16. -/
theorem addResult : Obligations.AddResult := fun _ _ _ hs => ⟨_, rfl, readModifyWrite_result hs (fAdd_eq _ _)⟩

/-- Settles O17. -/
theorem subResult : Obligations.SubResult := fun _ _ _ hs => ⟨_, rfl, readModifyWrite_result hs (fSub_eq _ _)⟩

/-- Settles O18. -/
theorem mulResult : Obligations.MulResult := fun _ _ _ hs => ⟨_, rfl, readModifyWrite_result hs (fMul_eq _ _)⟩

/-- Settles O19: what is left to `divEx` is compared mode by mode. -/
theorem divResult : Obligations.DivResult := by
  intro b a s hs
  refine ⟨_, rfl, readModifyWrite_result hs ?_⟩
  rw [fDiv_eq]
  cases s.cfg.divEx with
  | fraction => rw [divExValue, Nat.shiftLeft_eq]; rfl
  | zero | unchanged => rfl

/-- Settles O20. -/
theorem modResult : Obligations.ModResult := fun _ _ _ hs => ⟨_, rfl, readModifyWrite_result hs (fMod_eq _ _ _)⟩

/-- Settles O21. -/
theorem shlResult : Obligations.ShlResult := fun _ _ _ hs => ⟨_, rfl, readModifyWrite_result hs (fShl_eq _ _)⟩

/-- Settles O22. -/
theorem shrResult : Obligations.ShrResult := fun _ _ _ hs => ⟨_, rfl, readModifyWrite_result hs (fShr_eq _ _)⟩

/-- Settles O24: the three `F_op` are the bitwise operations themselves and write no `ex`. -/
theorem bitwiseResults : Obligations.BitwiseResults := fun _ _ _ hs =>
  ⟨⟨_, rfl, readModifyWrite_result hs rfl⟩, ⟨_, rfl, readModifyWrite_result hs rfl⟩,
    _, rfl, readModifyWrite_result hs rfl⟩

/-! The corners of the shifts (R157, R158; D12). -/

/-- What the two shifts have in common at the amounts 0, 16 and 32 or more. -/
structure ShiftsAtCorners (f : Word → Word → AluResult) : Prop where
  zero : ∀ {v n : Word}, n = 0 → f v n = { r := v, e := some 0 }
  sixteen : ∀ {v n : Word}, n = 16 → f v n = { r := 0, e := some v }
  out : ∀ {v n : Word}, 32 ≤ n.toNat → f v n = { r := 0, e := some 0 }

theorem fShl_shiftsAtCorners : ShiftsAtCorners fShl where
  zero {v n} hn := by
    subst hn
    have hex : v.toNat / 65536 = 0 := Nat.div_eq_of_lt v.isLt
    simp [fShl_eq, hex]
  sixteen {v n} hn := by
    subst hn
    have hr : BitVec.ofNat 16 (v.toNat * 65536) = 0 := w16_mul_65536 v.toNat
    simp [fShl_eq, hr]
  out {v n} h := by
    obtain ⟨k, hk⟩ := Nat.exists_eq_add_of_le' h
    have hp : v.toNat * 2 ^ n.toNat = v.toNat * 2 ^ k * 65536 * 65536 := by
      rw [hk, Nat.pow_add, Nat.mul_assoc _ 65536 65536, Nat.mul_assoc]
    rw [fShl_eq, hp, Nat.mul_div_cancel _ (by decide)]
    exact congrArg₂ AluResult.mk (w16_mul_65536 _) (congrArg some (w16_mul_65536 _))

theorem fShr_shiftsAtCorners : ShiftsAtCorners fShr where
  zero {v n} hn := by
    subst hn
    have hex : BitVec.ofNat 16 (v.toNat * 65536) = 0 := w16_mul_65536 v.toNat
    simp [fShr_eq, hex]
  sixteen {v n} hn := by
    subst hn
    have hr : v.toNat / 65536 = 0 := Nat.div_eq_of_lt v.isLt
    simp [fShr_eq, hr]
  out {v n} h := by
    have hpow : 2 ^ 32 ≤ 2 ^ n.toNat := Nat.pow_le_pow_right (by decide) h
    have hr : v.toNat / 2 ^ n.toNat = 0 := Nat.div_eq_of_lt (by omega)
    have hex : v.toNat * 65536 / 2 ^ n.toNat = 0 := Nat.div_eq_of_lt (by omega)
    rw [fShr_eq, hr, hex]
    rfl

/-- With a destination other than `EX`, an unskipped read-modify-write leaves its `ex` write in `ex`. -/
theorem ex_readModifyWrite {f : Word → Word → AluResult} {b a : Operand} {s : State} {r v : Word}
    (hs : s.skip = false) (hl : operandLoc b s ≠ .spc .ex)
    (hf : f (operandValue b s) (sourceValue b a s) = { r := r, e := some v }) : (readModifyWrite f b a s).ex = v := by
  obtain ⟨-, -, -, -, hex, -⟩ := readModifyWrite_result hs hf
  exact hex.trans (exAfter_of_ne hl ..)

/-- An unskipped read-modify-write leaves its result in the register or the cell of its destination. -/
theorem destination_readModifyWrite {f : Word → Word → AluResult} {b a : Operand} {s : State} {r : Word}
    {e : Option Word} (hs : s.skip = false)
    (hf : f (operandValue b s) (sourceValue b a s) = { r := r, e := e }) :
    (∀ k, operandLoc b s = .reg k → (readModifyWrite f b a s).reg k = r)
      ∧ ∀ x, operandLoc b s = .mem x → memRead (readModifyWrite f b a s) x = r := by
  obtain ⟨hreg, -, -, -, -, hmem, -⟩ := readModifyWrite_result hs hf
  exact ⟨fun k hk => (hreg k).trans (if_pos hk), fun x hx => (hmem x).trans (if_pos hx)⟩

/-- Settles O23: at each corner both shifts have one result (`ShiftsAtCorners`). -/
theorem shiftCorners : Obligations.ShiftCorners := by
  intro b a s hs hl
  have hshl := fShl_shiftsAtCorners
  have hshr := fShr_shiftsAtCorners
  refine ⟨_, _, rfl, rfl, fun hn => ?_, fun hn => ?_, fun hn => ?_⟩
  · exact ⟨ex_readModifyWrite hs hl (hshl.zero hn), ex_readModifyWrite hs hl (hshr.zero hn)⟩
  · exact ⟨ex_readModifyWrite hs hl (hshl.sixteen hn), ex_readModifyWrite hs hl (hshr.sixteen hn)⟩
  · obtain ⟨hlreg, hlmem⟩ := destination_readModifyWrite hs (hshl.out hn)
    obtain ⟨hrreg, hrmem⟩ := destination_readModifyWrite hs (hshr.out hn)
    exact ⟨ex_readModifyWrite hs hl (hshl.out hn), ex_readModifyWrite hs hl (hshr.out hn),
      fun k hk => ⟨hlreg k hk, hrreg k hk⟩, fun x hx => ⟨hlmem x hx, hrmem x hx⟩⟩

end Sys2Proof.Machine
end

section
/-! SUPPORT. The results of the conditionals (42_conditional.md R190 to R194): the negation of each condition, put into
what every unskipped conditional does. -/

namespace Sys2Proof.Machine

/-- The exact next state of an unskipped conditional, its failed condition in a form of the caller's. -/
theorem exec_conditional_of_failed {i : Instr} {s : State} {p : Prop} [Decidable p] (hi : i.isConditional = true)
    (hs : s.skip = false) (hp : conditionHolds i s = false ↔ p) :
    exec i s = .next { afterInstrOperands i s with skip := decide p } := by
  have hfailed : (!conditionHolds i s) = decide p := by
    rw [Bool.eq_iff_iff, Bool.not_eq_true', hp, decide_eq_true_iff]
  exact hfailed ▸ exec_conditional hi hs

/-! When each condition fails (R191 to R194). -/

theorem ife_fails_iff (b a : Operand) (s : State) :
    conditionHolds (.ife b a) s = false ↔ operandValue b s ≠ sourceValue b a s :=
  decide_eq_false_iff_not

theorem ifn_fails_iff (b a : Operand) (s : State) :
    conditionHolds (.ifn b a) s = false ↔ operandValue b s = sourceValue b a s :=
  decide_eq_false_iff_not.trans not_ne_iff

theorem ifg_fails_iff (b a : Operand) (s : State) :
    conditionHolds (.ifg b a) s = false ↔ operandValue b s ≤ sourceValue b a s :=
  decide_eq_false_iff_not.trans BitVec.not_lt

theorem ifb_fails_iff (b a : Operand) (s : State) :
    conditionHolds (.ifb b a) s = false ↔ operandValue b s &&& sourceValue b a s = 0 :=
  decide_eq_false_iff_not.trans not_ne_iff

/-- Settles O25: each conditional sets `skip` to its failed condition (`exec_conditional_of_failed`). -/
theorem conditionalResults : Obligations.ConditionalResults := fun b a s hs =>
  ⟨exec_conditional_of_failed rfl hs (ife_fails_iff b a s), exec_conditional_of_failed rfl hs (ifn_fails_iff b a s),
    exec_conditional_of_failed rfl hs (ifg_fails_iff b a s), exec_conditional_of_failed rfl hs (ifb_fails_iff b a s)⟩

end Sys2Proof.Machine
end

section
/-! SUPPORT. The results of the extended instructions (43_extended.md R211 to R217) and the return of `SET PC, POP`
(R218): each unskipped handler's exact state after its operand is resolved. -/

namespace Sys2Proof.Machine

/-! The endings the handlers share. -/

/-- The flag a handler clears at its end is clear already in an unskipped instruction. -/
theorem setSkip_false_of_not_skip {s : State} (h : s.skip = false) : s.setSkip false = s := by
  rw [← h]
  rfl

/-- An unskipped instruction that resolves one value and then works with it behind the skip guard. -/
theorem guardedEffect_of_not_skip (a : Operand) {s : State} (h : s.skip = false) (effect : Word → State → State) :
    skipGuard (resolveValue a s).2 (effect (resolveValue a s).1) = effect (operandValue a s) (afterOperand a s) := by
  rw [resolveValue_of_not_skip a h]
  exact skipGuard_of_not_skip (s := afterOperand a s) h _

theorem setPath_of_not_skip (b a : Operand) {s : State} (h : s.skip = false) :
    setPath b a s = (writeLoc (afterOperands b a s) (operandLoc b s) (sourceValue b a s)).setSkip false := by
  have hb : (afterOperand b s).skip = false := h
  simp only [setPath, resolveLoc_of_not_skip b h, resolveValue_of_not_skip a hb]
  rfl

/-- A raise changes at most the queue, and that only while `ia` is not 0 (60_exceptions.md R247). -/
theorem raiseInterrupt_eq (s : State) (m : Word) :
    raiseInterrupt s m = { s with queue := if s.ia = 0 then s.queue else s.queue ++ [m] } := by
  rcases raiseInterrupt_cases s m with ⟨hia, e⟩ | ⟨hia, e⟩
  · rw [e, if_pos hia]
  · rw [e, if_neg hia]

theorem zeroQueryRegisters_of_abcxy {s : State} (h : s.cfg.hwqMode = .abcxy) :
    zeroQueryRegisters s = { s with regs := { s.regs with a := 0, b := 0, c := 0, x := 0, y := 0 } } := by
  rw [zeroQueryRegisters, h]
  rfl

theorem zeroQueryRegisters_of_operand {s : State} (h : s.cfg.hwqMode = .operand) : zeroQueryRegisters s = s := by
  rw [zeroQueryRegisters, h]

/-! The call and its return (R211, R218). -/

theorem exec_jsr_of_not_skip (a : Operand) {s : State} (h : s.skip = false) :
    exec (.jsr a) s = .next
      (((pushWord (afterOperand a s) (afterOperand a s).pc).setPc (operandValue a s)).setSkip false) :=
  congrArg _ (guardedEffect_of_not_skip a h fun target t => ((pushWord t t.pc).setPc target).setSkip false)

/-- Settles O26: the one store is the push's, so a read afterwards is a read after that write; `pc` and `sp` are the
two other fields the call sets. -/
theorem jsrResult : Obligations.JsrResult := fun a _ hs =>
  ⟨_, exec_jsr_of_not_skip a hs, rfl, rfl, fun addr => Memory.read_write _ _ _ addr, rfl, fun _ => rfl, rfl, rfl, rfl,
    rfl, rfl, rfl, rfl, rfl, rfl⟩

/-- `SET PC, POP` goes to the address on top of the stack and drops it from there. -/
theorem exec_set_pc_pop {s : State} (h : s.skip = false) :
    ∃ t, exec (.set .pc .pop) s = .next t ∧ t.pc = memRead s s.sp ∧ t.sp = s.sp + 1 ∧ ∀ k, t.reg k = s.reg k := by
  obtain ⟨t, hexec, hreg, hpc, hsp, -⟩ := setResult .pc .pop s h
  have hm : afterOperands .pc .pop s = afterOperand .pop s :=
    congrArg (afterOperand .pop) (afterOperand_eq_self rfl rfl s)
  have hv : sourceValue .pc .pop s = memRead s s.sp :=
    congrArg (operandValue .pop) (afterOperand_eq_self rfl rfl s)
  rw [hv] at hpc
  rw [hm] at hsp
  exact ⟨t, hexec, hpc, hsp, hreg⟩

/-- Settles O45: the return reads the cell the call pushed to and moves `sp` back up over it. -/
theorem callThenReturn : Obligations.CallThenReturn := by
  intro a s hs
  obtain ⟨t, hcall, -, hsp, hmem, -, hreg, -, -, hskip, -⟩ := jsrResult a s hs
  obtain ⟨u, hreturn, hpc', hsp', hreg'⟩ := exec_set_pc_pop hskip
  refine ⟨t, u, hcall, hreturn, ?_, ?_, fun k => (hreg' k).trans (hreg k)⟩
  · rw [hpc', hmem t.sp, if_pos hsp]
  · rw [hsp', hsp, BitVec.sub_add_cancel]

/-! Interrupts (R212 to R214). -/

/-- Settles O27: behind the guard, `INT` is the raise of its operand's value. -/
theorem intResult : Obligations.IntResult := by
  intro a s hs
  have hguard := guardedEffect_of_not_skip a hs fun message t => (raiseInterrupt t message).setSkip false
  rw [raiseInterrupt_eq] at hguard
  exact congrArg _ (hguard.trans (setSkip_false_of_not_skip hs))

/-- Settles O28. -/
theorem iagResult : Obligations.IagResult := by
  intro a s hs
  refine ⟨_, rfl, ?_⟩
  rw [resolveLoc_of_not_skip a hs]
  exact endsWriting_writeLoc (afterOperand a s) (operandLoc a s) s.ia

/-- Settles O29: `IAS` is the `SET` path with destination `IA`, whose resolution changes nothing. -/
theorem iasResult : Obligations.IasResult := by
  intro a s hs
  have hia : afterOperand .ia s = s := afterOperand_eq_self rfl rfl s
  have hkept : ((afterOperand a s).setIa (operandValue a s)).skip = false := hs
  calc exec (.ias a) s
    _ = .next ((writeLoc (afterOperands .ia a s) (.spc .ia) (sourceValue .ia a s)).setSkip false) :=
      congrArg _ (setPath_of_not_skip .ia a hs)
    _ = .next (((afterOperand a s).setIa (operandValue a s)).setSkip false) := by
      rw [afterOperands, sourceValue, hia, writeLoc]
    _ = _ := congrArg _ (setSkip_false_of_not_skip hkept)

/-! Hardware queries (R215 to R217). -/

/-- Settles O30. -/
theorem hwnResult : Obligations.HwnResult := by
  intro a s hs
  refine ⟨_, rfl, ?_⟩
  simp only [resolveLoc_of_not_skip a hs]
  rw [skipGuard_of_not_skip (s := afterOperand a s) hs]
  exact endsWriting_writeLoc (afterOperand a s) (operandLoc a s) 0

/-- An unskipped `HWQ` is its zeros, whichever the mode. -/
theorem exec_hwq_of_not_skip (a : Operand) {s : State} (h : s.skip = false) :
    exec (.hwq a) s = .next (zeroQueryRegisters (afterOperand a s)) := by
  obtain ⟨g, hzero, -⟩ := zeroQueryRegisters_eq (afterOperand a s)
  have hkept : (zeroQueryRegisters (afterOperand a s)).skip = false := by rw [hzero]; exact h
  exact congrArg _ ((guardedValue_of_not_skip a h _).trans (setSkip_false_of_not_skip hkept))

theorem exec_hwi_of_not_skip (a : Operand) {s : State} (h : s.skip = false) :
    exec (.hwi a) s = .next (afterOperand a s) :=
  congrArg _ ((guardedValue_of_not_skip a h _).trans (setSkip_false_of_not_skip (s := afterOperand a s) h))

/-- Settles O31, mode by mode: resolving the operand keeps the configuration. -/
theorem hwqHwiResults : Obligations.HwqHwiResults := by
  intro a s hs
  refine ⟨?_, exec_hwi_of_not_skip a hs⟩
  rw [exec_hwq_of_not_skip a hs]
  cases hmode : s.cfg.hwqMode with
  | abcxy => rw [zeroQueryRegisters_of_abcxy (s := afterOperand a s) hmode]; rfl
  | operand => rw [zeroQueryRegisters_of_operand (s := afterOperand a s) hmode]

end Sys2Proof.Machine
end

section
/-! SUPPORT. Division and remainder by zero (41_assign_arith.md R155, R156; 60_exceptions.md R242). -/

namespace Sys2Proof.Machine

theorem fDiv_zero (m : DivEx) (vb : Word) : fDiv m vb 0 = { r := 0, e := some 0 } := if_pos rfl

theorem fMod_zero (m : ModEx) (vb : Word) :
    fMod m vb 0 = { r := 0, e := if m = .zeroOnDivZero then some 0 else none } := by
  simp [fMod_eq]

/-- Settles O32: the two `F_op` at divisor 0, put into the read-modify-write skeleton. -/
theorem divideByZeroIsDefined : Obligations.DivideByZeroIsDefined := by
  intro b a s hs hzero
  refine ⟨⟨_, rfl, readModifyWrite_result hs ?_⟩, _, rfl, readModifyWrite_result hs ?_⟩
  · rw [hzero, fDiv_zero]
  · rw [hzero, fMod_zero]

end Sys2Proof.Machine
end

section
/-! SUPPORT. Interrupt dispatch by its case, and the return from a handler (60_exceptions.md R248, R251, R252). -/

namespace Sys2Proof.Machine

/-- With `ia` 0 a dispatch drops the head, and that is all. -/
theorem dispatch_of_disabled {s : State} {m : Word} {rest : List Word} (hq : s.queue = m :: rest) (hia : s.ia = 0) :
    dispatch s = { s with queue := rest } := by
  rw [dispatch, hq]
  exact if_pos hia

/-- With `ia` nonzero a dispatch delivers the head: `pc` and A go to the two cells below the stack pointer, whose
hooks fire in this order (D27). -/
theorem dispatch_of_enabled {s : State} {m : Word} {rest : List Word} (hq : s.queue = m :: rest) (hia : s.ia ≠ 0) :
    dispatch s = { s with
      queue := rest, pc := s.ia, sp := s.sp - 2, regs := s.regs.put .a m,
      mem := (s.mem.write (s.sp - 1) s.pc).write (s.sp - 2) (s.reg .a),
      trace := s.trace ++ eventsAt s.hooks (s.sp - 1) ++ eventsAt s.hooks (s.sp - 2) } := by
  have hsp : s.sp - 1 - 1 = s.sp - 2 := by bv_omega
  rw [dispatch, hq, ← hsp]
  exact if_neg hia

/-- Settles O41: every field stands in `dispatch_of_enabled`; the two pushed cells are different ones. -/
theorem dispatchDelivers : Obligations.DispatchDelivers := by
  intro s m rest hq hia
  rw [dispatch_of_enabled hq hia]
  refine ⟨rfl, rfl, rfl, fun k => Regs.get_put s.regs .a k m, fun x => ?_, rfl, rfl, rfl, rfl, rfl, rfl,
    rfl, rfl, rfl⟩
  have apart : x = s.sp - 1 → x ≠ s.sp - 2 := by bv_omega
  rw [memRead, Memory.read_write, Memory.read_write]
  by_cases hx : x = s.sp - 1
  · rw [if_neg (apart hx), if_pos hx, if_pos hx]
  · rw [if_neg hx, if_neg hx]
    rfl

/-- `SET b, POP`, where resolving `b` changes nothing, writes the word on top of the stack to `b` and drops it. -/
theorem exec_set_pop {b : Operand} {l : Loc} {s : State} (hwords : b.nextWords = 0) (hshift : b.spShift = 0)
    (hl : operandLoc b s = l) (hs : s.skip = false) :
    ∃ t, exec (.set b .pop) s = .next t ∧ EndsWriting (afterOperand .pop s) t l (memRead s s.sp) none := by
  have hends := setPath_endsWriting b .pop hs
  rw [afterOperands, sourceValue, afterOperand_eq_self hwords hshift, hl] at hends
  exact ⟨_, rfl, hends⟩

/-- `SET A, POP` pops into A and changes nothing else that a return from an interrupt has to restore. -/
theorem exec_set_a_pop {s : State} (hs : s.skip = false) :
    ∃ t, exec (.set (.reg .a) .pop) s = .next t ∧ t.sp = s.sp + 1
      ∧ (∀ k, t.reg k = if k = .a then memRead s s.sp else s.reg k) ∧ (∀ x, memRead t x = memRead s x)
      ∧ t.ex = s.ex ∧ t.ia = s.ia ∧ t.skip = false := by
  obtain ⟨t, ht, hreg, -, hsp, hia, hex, hmem, -, -, -, hskip, -⟩ :=
    exec_set_pop (b := .reg .a) (l := .reg .a) rfl rfl rfl hs
  refine ⟨t, ht, hsp, fun k => (hreg k).trans ?_, hmem, hex, hia, hskip⟩
  exact if_congr (by rw [Loc.reg.injEq, eq_comm]) rfl rfl

/-- Settles O44: the handler's two `SET`s pop A and `pc` from the cells the dispatch pushed them to. -/
theorem interruptReturn : Obligations.InterruptReturn := by
  intro s m rest hq hia hs
  obtain ⟨-, -, dsp, dreg, dmem, -, dex, dia, dskip, -⟩ := dispatchDelivers s m rest hq hia
  obtain ⟨t, ht, tsp, treg, tmem, tex, tia, tskip⟩ := exec_set_a_pop (dskip.trans hs)
  obtain ⟨u, hu, ureg, upc, usp, uia, uex, -, -, -, -, uskip, -⟩ :=
    exec_set_pop (b := .pc) (l := .spc .pc) rfl rfl rfl tskip
  have up1 : s.sp - 2 + 1 = s.sp - 1 := by bv_omega
  have up2 : s.sp - 1 + 1 = s.sp := by bv_omega
  have apart : s.sp - 2 ≠ s.sp - 1 := by bv_omega
  have top : t.sp = s.sp - 1 := by rw [tsp, dsp, up1]
  refine ⟨t, u, ht, hu, ?_, ?_, fun k => (ureg k).trans ((treg k).trans ?_), uex.trans (tex.trans dex),
    uia.trans (tia.trans dia), uskip⟩
  · exact upc.trans (by rw [if_pos rfl, top, tmem, dmem, if_pos rfl])
  · exact usp.trans ((congrArg (· + 1) top).trans up2)
  · split
    case isTrue hk => rw [dsp, dmem, if_neg apart, if_pos rfl, hk]
    case isFalse hk => rw [dreg, if_neg hk]

end Sys2Proof.Machine
end

section
/-! SUPPORT. What an instruction boundary does, by the policy of `irqMode` (60_exceptions.md R248, R250; D16), and the
moves of host and environment there (R260; log 17). -/

namespace Sys2Proof.Machine

theorem dispatchReady_iff (s : State) :
    dispatchReady s = true ↔ s.queue ≠ [] ∧ s.skip = false ∧ s.dispatched = false := by
  simp [dispatchReady, and_assoc]

/-- A dispatch does the same whichever free value comes next (log 6). -/
theorem dispatch_setFresh (s : State) (n : Nat) : dispatch (s.setFresh n) = (dispatch s).setFresh n := by
  rcases dispatch_cases s with ⟨hq, e⟩ | ⟨m, rest, hq, hia, e⟩ | ⟨m, rest, hq, hia, e⟩ <;> rw [e]
  · rw [dispatch, State.queue_setFresh, hq]
  · exact dispatch_of_disabled (s := s.setFresh n) hq hia
  · rw [dispatch, State.queue_setFresh, hq]
    exact if_neg hia

/-! The boundary. -/

theorem boundary_of_never {s : State} (h : s.cfg.irqMode = .never) : boundary s = .proceeds s := by
  rw [boundary, h, ite_self]

theorem boundary_of_eager {s : State} (hr : dispatchReady s = true) (h : s.cfg.irqMode = .eager) :
    boundary s = .dispatched (dispatchHere s) := by
  rw [boundary, if_pos hr, h]

/-- Under `ANY_BOUNDARY` an enabled dispatch is taken or not, and the choice is used up either way. -/
theorem boundary_of_anyBoundary {s : State} (hr : dispatchReady s = true) (h : s.cfg.irqMode = .anyBoundary) :
    boundary s = .dispatched (dispatchHere (s.setFresh (s.fresh + 1)))
      ∨ boundary s = .proceeds (s.setFresh (s.fresh + 1)) := by
  rw [boundary, if_pos hr, h]
  exact ite_eq_or_eq ..

/-- Settles O42: where no dispatch is enabled, and under each of the three policies where one is. -/
theorem boundaryPolicy : Obligations.BoundaryPolicy := by
  refine fun s => ⟨?_, fun m rest hq hskip hdisp => ?_⟩
  · rintro (hq | hskip | hdisp | hnever)
    · exact boundary_of_not_ready (by simp [dispatchReady, hq])
    · exact boundary_of_skip hskip
    · exact boundary_of_not_ready (by simp [dispatchReady, hdisp])
    · exact boundary_of_never hnever
  · have hr : dispatchReady s = true := (dispatchReady_iff s).mpr ⟨by simp [hq], hskip, hdisp⟩
    refine ⟨fun heager => step_of_dispatched (boundary_of_eager hr heager), fun hany => ?_, dispatch_of_disabled hq⟩
    refine (boundary_of_anyBoundary hr hany).imp_left fun hb => (step_of_dispatched hb).trans ?_
    rw [dispatchHere, dispatch_setFresh]
    rfl

/-- Settles O43: a dispatch leaves the mark with which no further one is enabled. -/
theorem oneDispatchPerBoundary : Obligations.OneDispatchPerBoundary := by
  intro s t h
  rcases boundary_cases s with ⟨n, e⟩ | ⟨-, n, e⟩
  · cases e.symm.trans h
  · obtain rfl : dispatchHere { s with fresh := n } = t := Boundary.dispatched.inj (e.symm.trans h)
    exact boundary_of_not_ready (Bool.and_false _)

/-! The environment's dispatch and the host's step. -/

theorem environmentDispatch_eq (s : State) :
    environmentDispatch s
      = if s.queue ≠ [] ∧ s.skip = false ∧ s.dispatched = false ∧ s.cfg.irqMode ≠ .never
        then { dispatch s with dispatched := true } else s := by
  have henabled : (dispatchReady s && decide (s.cfg.irqMode ≠ .never)) = true
      ↔ s.queue ≠ [] ∧ s.skip = false ∧ s.dispatched = false ∧ s.cfg.irqMode ≠ .never := by
    rw [Bool.and_eq_true, dispatchReady_iff, decide_eq_true_iff, and_assoc, and_assoc]
  exact if_congr henabled rfl rfl

theorem settleBoundary_eq (s : State) :
    settleBoundary s
      = if s.cfg.irqMode = .eager ∧ s.queue ≠ [] ∧ s.skip = false ∧ s.dispatched = false
        then { dispatch s with dispatched := true } else s := by
  by_cases h : s.cfg.irqMode = .eager
  · rw [settleBoundary, if_pos h, environmentDispatch_eq]
    exact if_congr (by simp [h]) rfl rfl
  · rw [settleBoundary, if_neg h, if_neg fun k => h k.1]

/-- Settles O54: registering and raising in the closed forms of their state, the dispatch by what enables it. -/
theorem hostOperations : Obligations.HostOperations := fun s =>
  ⟨fun _ _ _ => rfl, fun m => congrArg _ (raiseInterrupt_eq s m), rfl, fun _ _ => rfl,
    congrArg _ (environmentDispatch_eq s)⟩

/-- Settles O55: the host's step is one instruction step from the settled boundary, and `exec` always completes
(`exec_instrFrame`). -/
theorem hostStepRunsOneInstruction : Obligations.HostStepRunsOneInstruction := by
  intro s
  rw [← settleBoundary_eq]
  refine ⟨fun i hd => ?_, fun w hd => stepInstrWith_of_unassigned hd⟩
  obtain ⟨t, ht, -⟩ := exec_instrFrame i (afterFetch (settleBoundary s))
  have hstep : hostApply s .step = exec i (afterFetch (settleBoundary s)) := stepInstrWith_of_instr hd
  exact ⟨hstep, t, hstep.trans ht⟩

theorem settleBoundary_of_ne_eager {s : State} (h : s.cfg.irqMode ≠ .eager) : settleBoundary s = s := if_neg h

theorem settleBoundary_of_not_ready {s : State} (h : dispatchReady s = false) : settleBoundary s = s := by
  rcases settleBoundary_cases s with e | ⟨-, hr, -⟩
  · exact e
  · cases h.symm.trans hr

theorem environmentDispatch_of_ready {s : State} (hr : dispatchReady s = true) (h : s.cfg.irqMode ≠ .never) :
    environmentDispatch s = dispatchHere s := if_pos (by simp [hr, h])

/-- A boundary takes the environment's dispatch or goes on where the host's step begins. -/
theorem boundary_eq_move (s : State) :
    ∃ n, (n = s.fresh ∨ n = s.fresh + 1)
      ∧ (boundary s = .dispatched (environmentDispatch { s with fresh := n })
        ∨ boundary s = .proceeds (settleBoundary { s with fresh := n })) := by
  cases hr : dispatchReady s with
  | false => exact ⟨s.fresh, .inl rfl, .inr (by rw [boundary_of_not_ready hr, settleBoundary_of_not_ready hr])⟩
  | true =>
    cases hmode : s.cfg.irqMode with
    | never =>
      exact ⟨s.fresh, .inl rfl,
        .inr (by rw [boundary_of_never hmode, settleBoundary_of_ne_eager (by simp [hmode])])⟩
    | eager =>
      exact ⟨s.fresh, .inl rfl,
        .inl (by rw [boundary_of_eager hr hmode, environmentDispatch_of_ready hr (by simp [hmode])])⟩
    | anyBoundary =>
      have hdispatch : environmentDispatch (s.setFresh (s.fresh + 1)) = dispatchHere (s.setFresh (s.fresh + 1)) :=
        environmentDispatch_of_ready (s := s.setFresh (s.fresh + 1)) hr (by simp [hmode])
      have hsettle : settleBoundary (s.setFresh (s.fresh + 1)) = s.setFresh (s.fresh + 1) :=
        settleBoundary_of_ne_eager (by simp [hmode])
      have hboundary := boundary_of_anyBoundary hr hmode
      rw [← hdispatch] at hboundary
      exact ⟨s.fresh + 1, .inr rfl, hboundary.imp_right fun e => e.trans (congrArg _ hsettle.symm)⟩

/-- Settles O56: `step` follows the boundary, which is one of the two moves (`boundary_eq_move`). -/
theorem stepIsAMoveOfHostOrEnvironment : Obligations.StepIsAMoveOfHostOrEnvironment := by
  intro s
  obtain ⟨n, hn, hmove⟩ := boundary_eq_move s
  exact ⟨n, hn, hmove.imp step_of_dispatched step_of_proceeds⟩

end Sys2Proof.Machine
end

section
/-! SUPPORT. The invariant under the operations of host and environment (60_exceptions.md R260). -/

namespace Sys2Proof.Machine

/-- What changes memory and trace by writes that notify keeps the invariant, if it keeps its clause about `skip`. -/
theorem State.Inv.of_notifiedWrites {s t : State} (hs : s.Inv) (writes : NotifiedWrites s t)
    (hskip : t.dispatched = true → t.skip = false) : t.Inv := by
  obtain ⟨hmem, -, htrace⟩ := hs
  exact ⟨writes.mem_wf hmem, hskip, writes.traceFromHooks htrace⟩

theorem reset_inv : State.reset.Inv := ⟨reset_mem_wf, nofun, fun _ he => absurd he List.not_mem_nil⟩

theorem load_inv {s : State} (hs : s.Inv) (start : Word) (image : List Word) : (load s start image).Inv := by
  obtain ⟨hmem, hskip, htrace⟩ := hs
  have hwf := load_mem_wf image start hmem
  rw [load_eq image s start]
  exact ⟨hwf, hskip, htrace⟩

/-- The events so far stay those of registered hooks when one more is registered. -/
theorem registerHook_inv {s : State} (hs : s.Inv) (lo hi : Word) (observer : Nat) :
    (registerHook s lo hi observer).Inv := by
  obtain ⟨hmem, hskip, htrace⟩ := hs
  refine ⟨hmem, hskip, fun e he => ?_⟩
  obtain ⟨h, hh, covers⟩ := htrace e he
  exact ⟨h, List.mem_append_left _ hh, covers⟩

theorem raiseInterrupt_inv {s : State} (hs : s.Inv) (m : Word) : (raiseInterrupt s m).Inv := by
  rw [raiseInterrupt_eq]
  exact hs

/-- A dispatch sets its mark only where no skip is pending (R248). -/
theorem dispatchHere_inv {s : State} (hs : s.Inv) (hr : dispatchReady s = true) : (dispatchHere s).Inv :=
  hs.of_notifiedWrites (dispatchHere_notified s) fun _ => (dispatchHere_skip s).trans (skip_of_dispatchReady hr)

theorem environmentDispatch_inv {s : State} (hs : s.Inv) : (environmentDispatch s).Inv := by
  rcases environmentDispatch_cases s with e | ⟨hr, e⟩ <;> rw [e]
  · exact hs
  · exact dispatchHere_inv hs hr

theorem settleBoundary_inv {s : State} (hs : s.Inv) : (settleBoundary s).Inv := by
  rcases settleBoundary_cases s with e | ⟨-, hr, e⟩ <;> rw [e]
  · exact hs
  · exact dispatchHere_inv hs hr

/-- One instruction: the fetch clears the mark of a dispatch, and no handler sets it again. -/
theorem stepInstrWith_inv {e : Encoding} {s t : State} (hs : s.Inv) (h : stepInstrWith e s = .next t) : t.Inv := by
  obtain ⟨i, -, hx⟩ := stepInstrWith_next h
  have writes := property_of_exec_next (exec_notified i _) hx
  obtain ⟨-, -, kept⟩ := (property_of_exec_next (exec_instrFrame i _) hx).setup
  have cleared : t.dispatched = false := kept
  refine hs.of_notifiedWrites (.trans (t := afterFetch s) (.of_eq rfl rfl rfl) writes) fun hd => ?_
  cases cleared.symm.trans hd

/-- Settles O57, operation by operation. -/
theorem hostKeepsInv : Obligations.HostKeepsInv := by
  intro s t op hs h
  cases op with
  | step => exact stepInstrWith_inv (settleBoundary_inv hs) h
  | construct => cases h; exact reset_inv
  | load start image => cases h; exact load_inv hs start image
  | registerHook lo hi observer => cases h; exact registerHook_inv hs lo hi observer
  | raiseInterrupt m => cases h; exact raiseInterrupt_inv hs m
  | dispatch => cases h; exact environmentDispatch_inv hs

end Sys2Proof.Machine
end

section
/-! SUPPORT. The stop idiom `SUB PC, 1` (70_reset_and_hazards.md R278; D25): the exact state its step leaves, which is
again at the idiom, and safety by a predicate that every step keeps. -/

namespace Sys2Proof.Machine

/-! The subtraction from `pc`. -/

/-- A register file is what its eight registers read. -/
theorem Regs.eq_of_get_eq {g h : Regs} (e : ∀ k, g.get k = h.get k) : g = h := by
  cases g
  cases h
  rw [Regs.mk.injEq]
  exact ⟨e .a, e .b, e .c, e .x, e .y, e .z, e .i, e .j⟩

/-- An instruction whose destination is `PC` touches, beside `pc`, at most `ex` and the skip flag. -/
theorem EndsWriting.eq_of_pc {m t : State} {r v : Word} (h : EndsWriting m t (.spc .pc) r (some v)) :
    t = { m with pc := r, ex := v, skip := false } := by
  obtain ⟨hreg, hpc, hsp, hia, hex, -, -, hmemory, hdiscard, hskip, hqueue, hhooks, hcfg, hdispatched, hfresh⟩ := h
  obtain ⟨htrace, hmem⟩ := hmemory nofun
  have hregs : t.regs = m.regs := Regs.eq_of_get_eq hreg
  cases t
  cases m
  simp_all [exAfter]

/-- `SUB PC, 1` with `pc` past the instruction word (R153): back by one word, with the borrow in `ex`. -/
theorem exec_sub_pc_one {s : State} (hskip : s.skip = false) (hliteral : s.cfg.literal = .minus20) :
    exec (.sub .pc (.lit 0x21)) s = .next { s with pc := s.pc - 1, ex := if s.pc < 1 then 0xFFFF else 0 } := by
  have hm : afterOperands .pc (.lit 0x21) s = s :=
    (afterOperand_lit 0x21 _).trans (afterOperand_eq_self rfl rfl s)
  have hone : sourceValue .pc (.lit 0x21) s = 1 :=
    (congrArg (literalValue · 0x21) hliteral).trans (literalValue_minus20 (n := 1) (by decide))
  obtain ⟨t, hexec, hends⟩ := subResult .pc (.lit 0x21) s hskip
  rw [hm, hone] at hends
  rw [hexec, hends.eq_of_pc, ← hskip]
  rfl

/-! The idiom. -/

/-- In normal mode, nothing queued, under the default literals, with the word of `SUB PC, 1` at `pc`. -/
structure AtStopIdiom (s : State) : Prop where
  word : memRead s s.pc = 0x85C3
  skip : s.skip = false
  queue : s.queue = []
  literal : s.cfg.literal = .minus20

/-- What a step at the stop idiom leaves (R278). -/
def stopState (s : State) : State := { s with ex := if s.pc = 0xFFFF then 0xFFFF else 0, dispatched := false }

theorem decode_stopWord : decode 0x85C3 = .instr (.sub .pc (.lit 0x21)) := by decide

/-- Only at the top of memory does the word after the instruction have the address 0, from which 1 borrows. -/
theorem add_one_lt_one_iff (p : Word) : p + 1 < 1 ↔ p = 0xFFFF := by bv_omega

theorem step_atStopIdiom {s : State} (h : AtStopIdiom s) : step s = .next (stopState s) := by
  have hboundary : boundary s = .proceeds s := boundary_of_not_ready (by simp [dispatchReady, h.queue])
  have hdecode : decode (fetchedWord s) = .instr (.sub .pc (.lit 0x21)) :=
    (congrArg decode h.word).trans decode_stopWord
  calc step s
    _ = exec (.sub .pc (.lit 0x21)) (afterFetch s) := stepRunsDecodedInstr s s _ hboundary hdecode
    _ = .next { afterFetch s with pc := s.pc + 1 - 1, ex := if s.pc + 1 < 1 then 0xFFFF else 0 } :=
        exec_sub_pc_one (s := afterFetch s) h.skip h.literal
    _ = .next (stopState s) := by
        simp only [add_one_lt_one_iff, BitVec.add_sub_cancel]
        rfl

/-- The step leaves the word at `pc`, the flag, the queue and the configuration alone. -/
theorem stopState_atStopIdiom {s : State} (h : AtStopIdiom s) : AtStopIdiom (stopState s) :=
  ⟨h.word, h.skip, h.queue, h.literal⟩

theorem stopState_stopState (s : State) : stopState (stopState s) = stopState s := rfl

/-- Settles O46: the state left is at the idiom again, and a second step has nothing left to change in it. -/
theorem stopIdiomIsAFixedPoint : Obligations.StopIdiomIsAFixedPoint := by
  intro s hword hskip hqueue hliteral
  have h : AtStopIdiom s := ⟨hword, hskip, hqueue, hliteral⟩
  refine ⟨stopState s, step_atStopIdiom h, rfl, ?_⟩
  rw [step_atStopIdiom (stopState_atStopIdiom h), stopState_stopState]

/-! Safe runs. -/

/-- A state is safe if it meets a predicate under which every step succeeds and which every step keeps. -/
theorem safe_of_kept {P : State → Prop} (kept : ∀ s, P s → ∃ t, step s = .next t ∧ P t) {s : State} (hs : P s) :
    Safe s := by
  have reached : ∀ t, Reaches s t → P t := by
    intro t hr
    induction hr with
    | refl => exact hs
    | tail _ hstep ih =>
      obtain ⟨u, hu, hP⟩ := kept _ ih
      exact Host.Outcome.next.inj (hu.symm.trans hstep) ▸ hP
  intro t hr
  obtain ⟨u, hu, -⟩ := kept t (reached t hr)
  exact ⟨u, hu⟩

/-- Settles O47: being at the idiom is kept by every step. -/
theorem stopIdiomIsSafe : Obligations.StopIdiomIsSafe := by
  intro s hword hskip hqueue hliteral
  exact safe_of_kept (fun t h => ⟨stopState t, step_atStopIdiom h, stopState_atStopIdiom h⟩)
    (AtStopIdiom.mk hword hskip hqueue hliteral)

end Sys2Proof.Machine
end

section
/-! SUPPORT. The state after reset (70_reset_and_hazards.md R270, R271). -/

namespace Sys2Proof.Machine

theorem reg_reset (k : Reg) : State.reset.reg k = 0 := by cases k <;> rfl

/-- Nothing is listed, so every cell reads as the default (R270). -/
theorem memRead_reset (x : Word) : memRead State.reset x = 0 := rfl

/-- Nothing is queued, so the first transition fetches (R271), and the word 0 is unassigned (30_encoding.md R89). -/
theorem step_reset : step State.reset = .refused (.undefinedInstruction 0 { State.reset with pc := 1 }) := by
  have hboundary : boundary State.reset = .proceeds State.reset := boundary_of_not_ready rfl
  have hdecode : decode (fetchedWord State.reset) = .unassigned 0 :=
    (congrArg decode (memRead_reset State.reset.pc)).trans (decode_of_no_opcode rfl rfl)
  rw [step_of_proceeds hboundary, stepInstrWith_of_unassigned hdecode]
  rfl

/-- Settles O51. -/
theorem resetValues : Obligations.ResetValues :=
  ⟨reg_reset, rfl, rfl, rfl, rfl, rfl, memRead_reset, rfl, rfl, step_reset⟩

/-- Settles O52: `reset_inv`, with which O57 answers `construct`. -/
theorem resetHasInv : Obligations.ResetHasInv := reset_inv

end Sys2Proof.Machine
end
